-- ==== Sys2Proof/Word.lean ====
section
/-! DEFINITION. The word types of the block: bytes, the 16-bit fields and the 32-bit request word (R9, R100). -/

namespace Sys2Proof

/-- An unsigned 8-bit value, `UInt8` of R9. -/
abbrev Byte := BitVec 8

/-- A 16-bit operand field: a level read as `sint16`, or a delay in milliseconds (R105). -/
abbrev Half := BitVec 16

/-- The 32-bit request word (R100). -/
abbrev Word := BitVec 32

end Sys2Proof
end

