-- ==== Sys2Proof/Config.lean ====
section
/-! DEFINITION. The parameters of the block (R5, R6, R8) and the two uninterpreted constants the spec leaves open. -/

namespace Sys2Proof

/-- A glyph is exactly 8 row bytes (`GLYPH_ROWS`, R5); bit `i` of a row is display column `i` (R57). -/
structure Glyph where
  row0 : Byte
  row1 : Byte
  row2 : Byte
  row3 : Byte
  row4 : Byte
  row5 : Byte
  row6 : Byte
  row7 : Byte
deriving DecidableEq, Repr

/-- The policy `MISSING_GLYPH` for a character the font lacks (R5, R216). -/
inductive MissingGlyph where
  | fault
  | blank
deriving DecidableEq, Repr

/-- `FONT` as plain data (R8): the glyph of `c` is the first entry for `c`; without an entry `FONT(c) = none`.
Every function from the 256 codes to optional glyphs is such a list. -/
abbrev Font := List (Byte × Glyph)

/-- The parameters of R5 that a rule reads. R6: a model takes them as arguments of the machine, so `State` carries this
record and no step changes it. -/
structure Config where
  /-- `FRAME_N`, the module byte count of `CLEAR` and `INIT` (D10). -/
  frameN : Nat
  /-- `ADDR_COUNT`, the number of display offsets (D11). -/
  addrCount : Nat
  /-- `IO_FAULTS`: whether a pin write may fail (D17). -/
  ioFaults : Bool
  /-- `MISSING_GLYPH` (D15). -/
  missingGlyph : MissingGlyph
  /-- `FONT_BITS_REVERSED` (D16). -/
  fontBitsReversed : Bool
  /-- `FONT_ROWS_REVERSED` (D16). -/
  fontRowsReversed : Bool
  /-- `FONT` (D28). -/
  font : Font
deriving DecidableEq, Repr

/-- `FONT` is OPEN (R5, D28): the font of this hardware is uninterpreted, so nothing can be proved of its contents.
DESIGN CHOICE, safe: log entry 3. -/
opaque Config.fontTable : Font

/-- The free draw of R54: whether pin write number `n` fails, once the draws listed in the state are used up.
Read only when `IO_FAULTS = true`. DESIGN CHOICE, safe: log entry 4. -/
opaque Config.pinWriteFails : Nat → Bool

/-- The values of R5 for this hardware. -/
def Config.thisHardware : Config where
  frameN := 8
  addrCount := 16
  ioFaults := false
  missingGlyph := .fault
  fontBitsReversed := false
  fontRowsReversed := false
  font := Config.fontTable

/-- `FRAME_MAX`, the longest frame a request can carry (R5, D9). -/
def frameMax : Nat := 255

/-- `MSG_MAX`, the longest message a request can carry (R5, D19). -/
def msgMax : Nat := 255

end Sys2Proof
end

