-- ==== Sys2Proof/Syntax.lean ====
section
/-! DEFINITION. The instructions of the block: one constructor for each row of spec/opcode_table.json, and the items that the
request port and the wire level carry. -/

namespace Sys2Proof

/-- The 14 requests (R101), the two reserved opcodes (R108) and the five wire bytes (R93 to R97). -/
inductive Instr where
  /-- R130: `active = A[0]`, `level = B`, read as `sint16`. -/
  | init (active : Bool) (level : Half)
  /-- R143. -/
  | sendByte (b : Byte)
  /-- R144. -/
  | sendCommand (c : Byte)
  /-- R151: the address offset `A` and the data byte. -/
  | sendDataAt (a v : Byte)
  /-- R152: the payload. -/
  | sendFrame (bytes : List Byte)
  /-- R153. -/
  | clear
  /-- R145. -/
  | terminate
  /-- R171: `level = B`, read as `sint16`. -/
  | setBrightness (level : Half)
  /-- R172: `on = A[0]`. -/
  | setActive (on : Bool)
  /-- R183: `c1_row = B[7:0]`, `c2_row = B[15:8]`, `offset = A`. -/
  | mergeRow (c1 c2 offset : Byte)
  /-- R184: the codes `c1 = B[7:0]`, `c2 = B[15:8]`, and `offset = A`. -/
  | packFrame (c1 c2 offset : Byte)
  /-- R185: the payload and `delay = zext(B)`. -/
  | scrollStart (msg : List Byte) (delay : Half)
  /-- R186. -/
  | scrollStep
  /-- R187: the payload and `delay = zext(B)`. -/
  | scroll (msg : List Byte) (delay : Half)
  /-- R108: opcode 0xE with the 28 bits under it. -/
  | reservedE (rest : BitVec 28)
  /-- R108: opcode 0xF with the 28 bits under it. -/
  | reservedF (rest : BitVec 28)
  /-- R93: the wire byte 0x40. -/
  | dataAuto
  /-- R94: the wire byte 0x44. -/
  | dataFixed
  /-- R95: the wire byte `0b1000_AIII`. -/
  | dispCtrl (active : Bool) (intensity : BitVec 3)
  /-- R96: the wire byte `0b1100_AAAA`. -/
  | addr (offset : BitVec 4)
  /-- R97: a data byte, by its position after an address command. -/
  | data (b : Byte)
deriving DecidableEq, Repr

/-- What the wire level carries (R91, R97): a byte is the first of its transaction or a later one, and a transaction ends
with the terminator. DESIGN CHOICE: log entry 2. -/
inductive WireItem where
  /-- The byte that opens a transaction. -/
  | first (b : Byte)
  /-- A byte after the first of the same transaction. -/
  | later (b : Byte)
  /-- The terminator. -/
  | stop
deriving DecidableEq, Repr

/-- What the block is asked to do next: a request of the host (R99, R100), or an item of the wire level (R90). -/
inductive PortItem where
  | request (w : Word) (payload : List Byte)
  | wire (x : WireItem)
deriving DecidableEq, Repr

end Sys2Proof
end

