-- ==== Sys2Proof/Machine/State.lean ====
section
/-! DEFINITION. The state of the block, of the reference receiver and of the request port, as plain data, and its value at
power-up (R20 to R37, R51, R60 to R62, R240). -/

namespace Sys2Proof.Machine

/-- The two output lines (R50). -/
inductive Line where
  | clk
  | dio
deriving DecidableEq, Repr

/-- An event of the trace (R51). A level is `true` for 1. -/
inductive Event where
  /-- One write of a level to CLK. -/
  | setClk (b : Bool)
  /-- One write of a level to DIO. -/
  | setDat (b : Bool)
  /-- One call of the delay primitive, in milliseconds (R52). -/
  | sleep (ms : Half)
  /-- A pin write that failed (R54). -/
  | ioFail (line : Line)
deriving DecidableEq, Repr

/-- The kinds of mark (R211). -/
inductive MarkKind where
  | invalidRequest
  | notInitialized
  | hardwareIo
  | driverCorrupted
  | missingGlyph
  | invalidAddress
  | unframed
  | controllerUndefined
deriving DecidableEq, Repr

/-- An entry of `MARKS`: its kind and the index of the request that recorded it (R30). -/
structure Mark where
  kind : MarkKind
  request : Nat
deriving DecidableEq, Repr

/-- The statuses of a response (R104). -/
inductive Status where
  | ok
  | done
  | invalidRequest
  | notInitialized
  | hardwareIo
  | driverCorrupted
  | missingGlyph
deriving DecidableEq, Repr

/-- The response to a request (R104). -/
structure Response where
  status : Status
  result : List Byte
deriving DecidableEq, Repr

/-- `R_STATUS` (R32). -/
inductive SeqStatus where
  | idle
  | running
  | done
  | faulted
deriving DecidableEq, Repr

/-- `CTRL_MODE` (R60). -/
inductive AddrMode where
  | auto
  | fixed
deriving DecidableEq, Repr

/-- `RX_PHASE` (R61). -/
inductive RxPhase where
  | lost
  | idle
  | txB
  | txL
  | txT1
  | txT2
  | txT3
deriving DecidableEq, Repr

/-- The controller's display RAM: the known bytes in rising order of their offset; an offset without an entry is unknown,
the spec's `none` (R60). -/
abbrev Memory := List Host.Cell

/-- The controller's state (R60) and the reference receiver's registers (R61). -/
structure Receiver where
  /-- `RX_PHASE`. -/
  phase : RxPhase
  /-- `RX_NBITS`, `0..7`. -/
  nbits : Fin 8
  /-- `RX_ACC`. -/
  acc : Byte
  /-- `RX_BYTES`, oldest first. -/
  bytes : List Byte
  /-- `CTRL_RAM`. -/
  ram : Memory
  /-- `CTRL_MODE`. -/
  mode : Option AddrMode
  /-- `CTRL_DISP`: intensity and active. -/
  disp : Option (BitVec 3 × Bool)
deriving DecidableEq, Repr

/-- The whole state. An `Option` line level is the spec's own: `none` is an unknown level (R23, R24). -/
structure State where
  /-- The parameters (R5, R6); no step changes them. -/
  cfg : Config
  /-- What the host has still to be served, oldest first (R99). -/
  input : List PortItem
  /-- The last response (R104); `none` before the first. -/
  response : Option Response
  /-- How many requests have been served since power-up (R30). -/
  reqIndex : Nat
  /-- `CLK` (R23). -/
  clk : Option Bool
  /-- `DIO` (R24). -/
  dio : Option Bool
  /-- `INTENSITY` (R25). -/
  intensity : BitVec 3
  /-- `ACTIVE` (R26). -/
  active : Bool
  /-- `INIT_DONE` (R28). -/
  initDone : Bool
  /-- `CORRUPTED` (R29). -/
  corrupted : Bool
  /-- `MARKS`, oldest first (R30). -/
  marks : List Mark
  /-- `R_STATUS` (R31, R32). -/
  rStatus : SeqStatus
  /-- `R_MSG` (R31). -/
  rMsg : List Byte
  /-- `R_DELAY` (R31). -/
  rDelay : Half
  /-- `R_PAIR` (R31). -/
  rPair : Nat
  /-- `R_OFF` (R31), `0..7`. -/
  rOff : Fin 8
  /-- `R_SENT` (R31). -/
  rSent : Nat
  /-- `R_ERR` (R31). -/
  rErr : Option Status
  /-- `TRACE`, oldest first (R35). -/
  trace : List Event
  /-- The controller and the reference receiver (R60, R61). -/
  rx : Receiver
  /-- The model's own: the draws for the next pin writes, true for a failure (R54; log entry 4). -/
  pinDraws : List Bool
  /-- The model's own: how many draws have been taken (log entry 4). -/
  drawIndex : Nat
deriving DecidableEq, Repr

/-- The ways a step of the model stops. No run from power-up meets one: each names a sequencer state outside R31 and R32.
All are safe: the model stops where the spec gives no behaviour (log entry 9). -/
inductive Fault where
  /-- `SCROLL_STEP` found `R_STATUS = Running` with `R_MSG[R_PAIR]` or `R_MSG[R_PAIR + 1]` past the end of the message.
  Raised by `scrollStepOp`. Safe. -/
  | pairPastMessage
  /-- `SCROLL_STEP` found `R_STATUS = Faulted` with `R_ERR = none`. Raised by `scrollStepOp`. Safe. -/
  | noRecordedError
  /-- A `SCROLL` took more steps than R187 says it can. Raised by `scrollLoop`. Safe. -/
  | scrollOverrun
deriving DecidableEq, Repr

/-- The ways a step is refused. No step of this model is. -/
inductive Refusal where
  /-- An instruction without a meaning, by its mnemonic. Raised by no arm of `exec`. Safe. -/
  | notModelled (mnemonic : String)
deriving DecidableEq, Repr

/-- The receiver at power-up (R62). `nbits`, `acc` and `bytes` have no stated value: DESIGN CHOICE, log entry 6. -/
def Receiver.powerUp : Receiver where
  phase := .lost
  nbits := 0
  acc := 0
  bytes := []
  ram := []
  mode := none
  disp := none

/-- The machine at power-up (R240). `intensity` and `active` are unspecified: DESIGN CHOICE, log entry 5. -/
def State.reset : State where
  cfg := Config.thisHardware
  input := []
  response := none
  reqIndex := 0
  clk := none
  dio := none
  intensity := 0
  active := false
  initDone := false
  corrupted := false
  marks := []
  rStatus := .idle
  rMsg := []
  rDelay := 0
  rPair := 0
  rOff := 0
  rSent := 0
  rErr := none
  trace := []
  rx := Receiver.powerUp
  pinDraws := []
  drawIndex := 0

end Sys2Proof.Machine
end

