-- ==== Sys2Proof/Machine/Flags.lean ====
section
/-! DEFINITION. The block has no flags or condition codes (R22). What a request leaves to be seen of its outcome is its
response status; this file gives the statuses their codes and each error its status and mark (R104, R211). -/

namespace Sys2Proof.Machine

/-- The status code on the port (R104). -/
def Status.code : Status → Byte
  | .ok => 0
  | .done => 1
  | .invalidRequest => 2
  | .notInitialized => 3
  | .hardwareIo => 4
  | .driverCorrupted => 5
  | .missingGlyph => 6

/-- The response as the host receives it (R104). -/
def Response.encoded (r : Response) : Byte × List Byte := (r.status.code, r.result)

/-- The error kinds that end a request (R211). -/
inductive ErrorKind where
  | invalidRequest
  | notInitialized
  | hardwareIo
  | driverCorrupted
  | missingGlyph
deriving DecidableEq, Repr

/-- The status an error reports (R211). -/
def ErrorKind.status : ErrorKind → Status
  | .invalidRequest => .invalidRequest
  | .notInitialized => .notInitialized
  | .hardwareIo => .hardwareIo
  | .driverCorrupted => .driverCorrupted
  | .missingGlyph => .missingGlyph

/-- The mark an error records (R211). -/
def ErrorKind.mark : ErrorKind → MarkKind
  | .invalidRequest => .invalidRequest
  | .notInitialized => .notInitialized
  | .hardwareIo => .hardwareIo
  | .driverCorrupted => .driverCorrupted
  | .missingGlyph => .missingGlyph

end Sys2Proof.Machine
end

