-- ==== Sys2Proof/Machine/Operands.lean ====
section
/-! DEFINITION. Operand assembly and the pure functions of the block: levels, command bytes, the column interleaver, the
glyph lookup and the frame packer (R105 to R107, R180 to R182). -/

namespace Sys2Proof.Machine

/-- `sint16` (R9, R105). -/
def sint16 (b : Half) : Int := b.toInt

/-- `clamp(x, 0, 7)` on mathematical integers (R9, R105). -/
def clampLevel (x : Int) : BitVec 3 := BitVec.ofInt 3 (min (max x 0) 7)

/-- `addr_byte(a) = trunc8(0xC0 | a)` (R106). -/
def addrByte (a : Byte) : Byte := 0xC0 ||| a

/-- `0x80 | intensity | (0x08 if active else 0)` (R27, R95, R107). -/
def displayControlByte (intensity : BitVec 3) (active : Bool) : Byte :=
  0x80 ||| intensity.zeroExtend 8 ||| (if active then 0x08 else 0x00)

/-- The address command of a 4-bit offset (R96). -/
def addrCommand (offset : BitVec 4) : Byte := addrByte (offset.zeroExtend 8)

/-- The column interleaver (R180): shifts on naturals, truncated once at the end. -/
def merge (c1 c2 : Byte) (offset : Nat) : Byte :=
  BitVec.ofNat 8 ((c1.toNat >>> offset) ||| (c2.toNat <<< (8 - offset)))

/-- `rev8` (R9): bit `i` of the result is bit `7 - i`. -/
def rev8 (b : Byte) : Byte :=
  b.extractLsb' 0 1 ++ b.extractLsb' 1 1 ++ b.extractLsb' 2 1 ++ b.extractLsb' 3 1 ++
  b.extractLsb' 4 1 ++ b.extractLsb' 5 1 ++ b.extractLsb' 6 1 ++ b.extractLsb' 7 1

/-- The rows of a glyph, row 0 first. -/
def glyphRows (g : Glyph) : List Byte := [g.row0, g.row1, g.row2, g.row3, g.row4, g.row5, g.row6, g.row7]

/-- `[g[7], g[6], ..., g[0]]` (R181). -/
def reverseRows (g : Glyph) : Glyph := ⟨g.row7, g.row6, g.row5, g.row4, g.row3, g.row2, g.row1, g.row0⟩

/-- `[rev8(g[0]), ..., rev8(g[7])]` (R181). -/
def reverseBits (g : Glyph) : Glyph :=
  ⟨rev8 g.row0, rev8 g.row1, rev8 g.row2, rev8 g.row3, rev8 g.row4, rev8 g.row5, rev8 g.row6, rev8 g.row7⟩

/-- The all-zero glyph of the policy `blank` (R181). -/
def blankGlyph : Glyph := ⟨0, 0, 0, 0, 0, 0, 0, 0⟩

/-- `FONT(c)` (R8). -/
def fontAt (font : Font) (c : Byte) : Option Glyph := font.lookup c

/-- A glyph of the font brought to the convention "bit `i` is column `i`" (R181, R251). -/
def adaptGlyph (cfg : Config) (g : Glyph) : Glyph :=
  let g1 := if cfg.fontRowsReversed then reverseRows g else g
  if cfg.fontBitsReversed then reverseBits g1 else g1

/-- `lookup(c)` (R181, R216). -/
def lookupGlyph (cfg : Config) (c : Byte) : Option Glyph :=
  match fontAt cfg.font c with
  | some g => some (adaptGlyph cfg g)
  | none =>
    match cfg.missingGlyph with
    | .blank => some blankGlyph
    | .fault => none

/-- The frame packer (R182): frame byte `r` is merged row `r`. -/
def pack (g1 g2 : Glyph) (offset : Nat) : List Byte :=
  List.zipWith (fun a b => merge a b offset) (glyphRows g1) (glyphRows g2)

/-- The glyphs of two characters, if the lookup gives both (R184, R186). -/
def lookupPair (cfg : Config) (c1 c2 : Byte) : Option (Glyph × Glyph) :=
  match lookupGlyph cfg c1, lookupGlyph cfg c2 with
  | some g1, some g2 => some (g1, g2)
  | _, _ => none

end Sys2Proof.Machine
end

