-- ==== Sys2Proof/Machine/Receiver.lean ====
section
/-! DEFINITION. The controller's display RAM and the reference receiver: what a TM1640 makes of each event of the trace
(R60 to R75). -/

namespace Sys2Proof.Machine

/-! ### The display RAM -/

/-- The canonical form: offsets strictly rising. An entry is a known byte, and an unlisted offset is unknown, so no entry
repeats what an unlisted offset reads as. -/
def Memory.wf : Memory → Bool
  | [] => true
  | [_] => true
  | c :: d :: m => decide (c.1 < d.1) && Memory.wf (d :: m)

/-- What `CTRL_RAM[a]` holds: `none` is unknown (R60). -/
def Memory.read : Memory → Nat → Option Byte
  | [], _ => none
  | c :: m, a => if c.1 = a then some c.2 else Memory.read m a

/-- `CTRL_RAM[a] <- some v`. -/
def Memory.write (a : Nat) (v : Byte) : Memory → Memory
  | [] => [(a, v)]
  | c :: m =>
    if a < c.1 then (a, v) :: c :: m
    else if a = c.1 then (a, v) :: m
    else c :: Memory.write a v m

/-- `CTRL_RAM[a + k] <- some vs[k]` for each `k`, in rising order (R71). -/
def Memory.writeList (a : Nat) : List Byte → Memory → Memory
  | [], m => m
  | v :: vs, m => Memory.writeList (a + 1) vs (Memory.write a v m)

/-! ### The receiver -/

/-- `rx_error()` (R67), less its mark. -/
def rxError (r : Receiver) : Receiver := { r with phase := .lost, ram := [], mode := none, disp := none }

/-- `havoc_mark()` (R72), less its mark: the controller becomes unknown, the phase is kept. -/
def rxHavoc (r : Receiver) : Receiver := { r with ram := [], mode := none, disp := none }

/-- A one-byte transaction (R68, R69, R72). The flag says that `M_CONTROLLER_UNDEFINED` is recorded. -/
def rxCommand (c : Byte) (r : Receiver) : Receiver × Bool :=
  if c = 0x40 then ({ r with mode := some .auto }, false)
  else if c = 0x44 then ({ r with mode := some .fixed }, false)
  else if c.extractLsb' 4 4 = 0x8 then ({ r with disp := some (c.extractLsb' 0 3, c.getLsbD 3) }, false)
  else (rxHavoc r, true)

/-- An address command with data (R70, R71, R72): `n` is `ADDR_COUNT`, `c` the first byte, `d` the data. -/
def rxWrite (n : Nat) (c : Byte) (d : List Byte) (r : Receiver) : Receiver × Bool :=
  let a := (c.extractLsb' 0 4).toNat
  if c.extractLsb' 4 4 = 0xC then
    match r.mode with
    | some .fixed =>
      if d.length = 1 ∧ a < n then ({ r with ram := Memory.writeList a d r.ram }, false) else (rxHavoc r, true)
    | some .auto =>
      if a + d.length ≤ n then ({ r with ram := Memory.writeList a d r.ram }, false) else (rxHavoc r, true)
    | none => (rxHavoc r, true)
  else (rxHavoc r, true)

/-- `apply(T)` (R68 to R72). -/
def rxApply (n : Nat) (t : List Byte) (r : Receiver) : Receiver × Bool :=
  match t with
  | [] => (rxHavoc r, true)
  | [c] => rxCommand c r
  | c :: d :: ds => rxWrite n c (d :: ds) r

/-- A start cue (R64). -/
def rxStart (r : Receiver) : Receiver := { r with phase := .txB, nbits := 0, acc := 0, bytes := [] }

/-- One sampled bit (R65): bit `RX_NBITS` of the byte, and the byte is complete after bit 7. -/
def rxSample (v : Bool) (r : Receiver) : Receiver :=
  let acc := r.acc ||| ((BitVec.ofBool v).zeroExtend 8 <<< r.nbits.val)
  if r.nbits = 7 then { r with phase := .txB, bytes := r.bytes ++ [acc], nbits := 0, acc := 0 }
  else { r with phase := .txB, acc := acc, nbits := r.nbits + 1 }

/-- R63: in `LOST`, a data rise while the clock is high resynchronises. -/
def rxInLost (clk : Option Bool) (e : Event) (r : Receiver) : Receiver × Bool :=
  match e with
  | .setDat true => if clk = some true then ({ r with phase := .idle }, false) else (r, false)
  | _ => (r, false)

/-- R64. -/
def rxInIdle (clk : Option Bool) (e : Event) (r : Receiver) : Receiver × Bool :=
  match e with
  | .setClk _ => (r, false)
  | .setDat true => (r, false)
  | .setDat false => if clk = some true then (rxStart r, false) else (rxError r, true)
  | .sleep _ => (r, false)
  | .ioFail _ => (rxError r, true)

/-- R65, at a bit boundary with the clock high. -/
def rxInTxB (e : Event) (r : Receiver) : Receiver × Bool :=
  match e with
  | .setClk false => ({ r with phase := .txL }, false)
  | .setDat false => if r.nbits = 0 then ({ r with phase := .txT1 }, false) else (rxError r, true)
  | _ => (rxError r, true)

/-- R65, with the clock low inside a bit. -/
def rxInTxL (dio : Option Bool) (e : Event) (r : Receiver) : Receiver × Bool :=
  match e with
  | .setDat _ => (r, false)
  | .setClk false => (r, false)
  | .setClk true =>
    match dio with
    | some v => (rxSample v r, false)
    | none => (rxError r, true)
  | _ => (rxError r, true)

/-- R66, the first step of the terminator. -/
def rxInT1 (e : Event) (r : Receiver) : Receiver × Bool :=
  match e with
  | .setClk false => ({ r with phase := .txT2 }, false)
  | _ => (rxError r, true)

/-- R66, the second step of the terminator. -/
def rxInT2 (e : Event) (r : Receiver) : Receiver × Bool :=
  match e with
  | .setClk true => ({ r with phase := .txT3 }, false)
  | _ => (rxError r, true)

/-- R66, the end of the terminator: the transaction takes effect (R77). -/
def rxInT3 (n : Nat) (e : Event) (r : Receiver) : Receiver × Bool :=
  match e with
  | .setDat true => rxApply n r.bytes { r with phase := .idle }
  | _ => (rxError r, true)

/-- One event at the receiver (R63 to R67, R75): `clk` and `dio` are the levels before it. The flag says that
`M_CONTROLLER_UNDEFINED` is recorded (R220). -/
def rxEvent (n : Nat) (clk dio : Option Bool) (e : Event) (r : Receiver) : Receiver × Bool :=
  match r.phase with
  | .lost => rxInLost clk e r
  | .idle => rxInIdle clk e r
  | .txB => rxInTxB e r
  | .txL => rxInTxL dio e r
  | .txT1 => rxInT1 e r
  | .txT2 => rxInT2 e r
  | .txT3 => rxInT3 n e r

/-! ### What the panel shows -/

/-- What a display offset shows (R74): `lit` with the byte, if known, at a brightness level. -/
inductive PanelView where
  | unknown
  | dark
  | lit (byte : Option Byte) (level : BitVec 3)
deriving DecidableEq, Repr

/-- R74: derived from the controller, not state. -/
def panelShows (r : Receiver) (k : Nat) : PanelView :=
  match r.disp with
  | none => .unknown
  | some (_, false) => .dark
  | some (i, true) => .lit (Memory.read r.ram k) i

end Sys2Proof.Machine
end

