-- ==== Sys2Proof/Machine/Ops.lean ====
section
/-! DEFINITION. The named operations every request is built from: marks and responses, events and pin writes, the
transmission procedures, the checks before a request, and raising an error (R10, R50 to R54, R140 to R142, R150, R170,
R210, R214, R221). -/

namespace Sys2Proof.Machine

/-! ### Marks and responses -/

/-- `mark(M)` (R10, R30). -/
def addMark (k : MarkKind) (s : State) : State := { s with marks := s.marks ++ [⟨k, s.reqIndex⟩] }

/-- `respond(status, result)` (R10, R104). -/
def respond (st : Status) (result : List Byte) (s : State) : State := { s with response := some ⟨st, result⟩ }

/-- TAKING AN ERROR (R210, R211): record its mark and end the request with its status and no result. Nothing is saved, no
mode changes (R222), and there is no return from it: the next request runs as R223 says. -/
def raiseError (e : ErrorKind) (s : State) : State := respond e.status [] (addMark e.mark s)

/-- `precheck_driver()` (R221): NotInitialized before DriverCorrupted. -/
def precheckDriver (s : State) : Option ErrorKind :=
  if s.initDone = false then some .notInitialized
  else if s.corrupted then some .driverCorrupted
  else none

/-- A request that starts with `precheck_driver()`. -/
def withPrecheck (body : State → Host.Outcome State Fault Refusal) (s : State) : Host.Outcome State Fault Refusal :=
  match precheckDriver s with
  | some e => .next (raiseError e s)
  | none => body s

/-! ### Events -/

/-- The clock level after an event (R51). -/
def clkAfter (e : Event) (level : Option Bool) : Option Bool :=
  match e with
  | .setClk b => some b
  | .ioFail .clk => none
  | _ => level

/-- The data level after an event (R51). -/
def dioAfter (e : Event) (level : Option Bool) : Option Bool :=
  match e with
  | .setDat b => some b
  | .ioFail .dio => none
  | _ => level

/-- `emit(e)` (R51): append to the trace, update the line, pass the event to the receiver. -/
def emit (e : Event) (s : State) : State :=
  let (rx, undefined) := rxEvent s.cfg.addrCount s.clk s.dio e s.rx
  { s with
    trace := s.trace ++ [e]
    clk := clkAfter e s.clk
    dio := dioAfter e s.dio
    rx := rx
    marks := if undefined then s.marks ++ [⟨.controllerUndefined, s.reqIndex⟩] else s.marks }

/-- The events of a list, one after the other, none failing. -/
def emitAll : List Event → State → State
  | [], s => s
  | e :: es, s => emitAll es (emit e s)

/-- The line an event writes, if it is a pin write. -/
def pinOf : Event → Option Line
  | .setClk _ => some .clk
  | .setDat _ => some .dio
  | .sleep _ => none
  | .ioFail _ => none

/-- The next free draw of R54: true if the pin write fails. -/
def nextDraw (s : State) : Bool :=
  match s.pinDraws with
  | d :: _ => d
  | [] => Config.pinWriteFails s.drawIndex

/-- The draw has been taken. -/
def takeDraw (s : State) : State := { s with pinDraws := s.pinDraws.tail, drawIndex := s.drawIndex + 1 }

/-- One `emit` of the pseudocode (R54, R214): with `IO_FAULTS = true` a pin write fails if the draw says so, and `IoFail`
takes its place. A `Sleep` never fails. The flag says that the event was emitted. -/
def tryEmit (e : Event) (s : State) : State × Bool :=
  match pinOf e with
  | none => (emit e s, true)
  | some line =>
    if s.cfg.ioFaults then
      if nextDraw s then (emit (.ioFail line) (takeDraw s), false) else (emit e (takeDraw s), true)
    else (emit e s, true)

/-- The events of a procedure in order, up to the first failed pin write (R210). -/
def drive : List Event → State → State × Bool
  | [], s => (s, true)
  | e :: es, s =>
    match tryEmit e s with
    | (t, true) => drive es t
    | (t, false) => (t, false)

/-- HardwareIoError after its `IoFail` (R214): `scrolling` is true for `SCROLL_STEP` and `SCROLL`. -/
def hardwareIoError (scrolling : Bool) (s : State) : State :=
  let t := { s with corrupted := true }
  raiseError .hardwareIo (if scrolling then { t with rStatus := .faulted, rErr := some .hardwareIo } else t)

/-- A request's events and what follows them, or the abort of R214. -/
def transmit (scrolling : Bool) (es : List Event) (after : State → State) (s : State) : State :=
  match drive es s with
  | (t, true) => after t
  | (t, false) => hardwareIoError scrolling t

/-! ### The transmission procedures -/

/-- A bit slot (R91): the controller samples `b` at the rising edge. -/
def bitSlot (b : Bool) : List Event := [.setClk false, .setDat b, .setClk true]

/-- The bits of `tx_byte` still to send: `k` bits, with `SHIFT` the byte shifted so far (R33, R140). -/
def txBits : Nat → Byte → List Event
  | 0, _ => []
  | k + 1, shift => bitSlot (shift.getLsbD 0) ++ txBits k (shift >>> 1)

/-- `tx_byte(b)` (R140). -/
def txByte (b : Byte) : List Event := txBits 8 b

/-- `tx_term()` (R141). -/
def txTerm : List Event := [.setDat false, .setClk false, .setClk true, .setDat true]

/-- The start cue (R91). -/
def startCue : Event := .setDat false

/-- `tx_command(c)` (R142). -/
def txCommand (c : Byte) : List Event := startCue :: (txByte c ++ txTerm)

/-- The bytes of a transaction, in sequence order. -/
def txBytes : List Byte → List Event
  | [] => []
  | b :: bs => txByte b ++ txBytes bs

/-- `tx_frame(bytes)` (R150). -/
def txFrame (bytes : List Byte) : List Event :=
  txCommand 0x40 ++ (startCue :: (txByte 0xC0 ++ (txBytes bytes ++ txTerm)))

/-- `tx_display_control()` (R170), from the stored state. -/
def txDisplayControl (s : State) : List Event := txCommand (displayControlByte s.intensity s.active)

/-! ### The sequencer -/

/-- Every scroll-unit register at its idle value (R130). -/
def clearSequencer (s : State) : State :=
  { s with rStatus := .idle, rMsg := [], rDelay := 0, rPair := 0, rOff := 0, rSent := 0, rErr := none }

/-- `SCROLL_START` after its precheck, less its response (R185). -/
def loadSequencer (msg : List Byte) (delay : Half) (s : State) : State :=
  { s with
    rMsg := msg, rDelay := delay, rPair := 0, rOff := 0, rSent := 0, rErr := none
    rStatus := if 2 ≤ msg.length then .running else .done }

/-- `R_MSG[R_PAIR]` and `R_MSG[R_PAIR + 1]` (R186), if the message has them. -/
def currentPair (s : State) : Option (Byte × Byte) :=
  match s.rMsg[s.rPair]?, s.rMsg[s.rPair + 1]? with
  | some c1, some c2 => some (c1, c2)
  | _, _ => none

/-- The position after a frame (R186): the next offset, or offset 0 of the next pair; `Done` when no pair is left. -/
def advanceSequencer (s : State) : State :=
  let pair := if s.rOff = 7 then s.rPair + 1 else s.rPair
  { s with
    rSent := s.rSent + 1
    rOff := if s.rOff = 7 then 0 else s.rOff + 1
    rPair := pair
    rStatus := if pair + 1 = s.rMsg.length then .done else s.rStatus }

/-- The delay before a frame that has a predecessor (R186). -/
def pacing (s : State) : List Event := if 0 < s.rSent then [.sleep s.rDelay] else []

end Sys2Proof.Machine
end

