-- ==== Sys2Proof/Machine/DisplayData.lean ====
section
/-! DEFINITION. The display data family: `SEND_DATA_AT` (R151), `SEND_FRAME` (R152), `CLEAR` (R153). -/

namespace Sys2Proof.Machine

/-- The events of a fixed-address write (R151): the command `0x44`, then the address and data transaction. -/
def txDataAt (a v : Byte) : List Event :=
  txCommand 0x44 ++ (startCue :: (txByte (addrByte a) ++ (txByte v ++ txTerm)))

/-- The contract check of `SEND_DATA_AT`: a mark, no error (R213). -/
def markAddress (a : Byte) (s : State) : State :=
  if s.cfg.addrCount ≤ a.toNat then addMark .invalidAddress s else s

/-- `SEND_DATA_AT` (R151). -/
def execSendDataAt (a v : Byte) (s : State) : Host.Outcome State Fault Refusal :=
  withPrecheck (fun t => .next (transmit false (txDataAt a v) (respond .ok []) (markAddress a t))) s

/-- `SEND_FRAME` (R152). -/
def execSendFrame (bytes : List Byte) (s : State) : Host.Outcome State Fault Refusal :=
  withPrecheck (fun t => .next (transmit false (txFrame bytes) (respond .ok []) t)) s

/-- `CLEAR` (R153): `FRAME_N` zero bytes. -/
def execClear (s : State) : Host.Outcome State Fault Refusal :=
  withPrecheck (fun t => .next (transmit false (txFrame (List.replicate t.cfg.frameN 0x00)) (respond .ok []) t)) s

end Sys2Proof.Machine
end

