-- ==== Sys2Proof/Machine/Lifecycle.lean ====
section
/-! DEFINITION. The lifecycle family: `INIT` (R130), the block's reset (R241). -/

namespace Sys2Proof.Machine

/-- The register writes of `INIT` that precede its first event (R130, R222). -/
def initRegisters (active : Bool) (level : Half) (s : State) : State :=
  clearSequencer { s with intensity := clampLevel (sint16 level), active := active }

/-- The pin events of `INIT` (R130): the idle clock, the data line high, the clear, one display-control command. -/
def initEvents (s : State) : List Event :=
  .setClk false :: .setClk true :: .setDat true ::
    (txFrame (List.replicate s.cfg.frameN 0x00) ++ txDisplayControl s)

/-- `INIT` (R130): no precheck; it is allowed before any `INIT` and while `CORRUPTED` (R221). -/
def execInit (active : Bool) (level : Half) (s : State) : Host.Outcome State Fault Refusal :=
  let t := initRegisters active level s
  .next (transmit false (initEvents t) (fun u => respond .ok [] { u with initDone := true, corrupted := false }) t)

end Sys2Proof.Machine
end

