-- ==== Sys2Proof/Machine/Power.lean ====
section
/-! DEFINITION. The power and brightness family: `SET_BRIGHTNESS` (R171), `SET_ACTIVE` (R172). -/

namespace Sys2Proof.Machine

/-- Re-issue the display-control command and answer `OK` (R170). -/
def reissueDisplayControl (s : State) : State := transmit false (txDisplayControl s) (respond .ok []) s

/-- `SET_BRIGHTNESS` (R171): the level is clamped, never refused (R212). -/
def execSetBrightness (level : Half) (s : State) : Host.Outcome State Fault Refusal :=
  withPrecheck (fun t => .next (reissueDisplayControl { t with intensity := clampLevel (sint16 level) })) s

/-- `SET_ACTIVE` (R172): nothing of the display RAM is cleared (R173, R247). -/
def execSetActive (on : Bool) (s : State) : Host.Outcome State Fault Refusal :=
  withPrecheck (fun t => .next (reissueDisplayControl { t with active := on })) s

end Sys2Proof.Machine
end

