-- ==== Sys2Proof/Machine/Reserved.lean ====
section
/-! DEFINITION. The reserved request opcodes (R108): each is answered with `E_INVALID_REQUEST` (R218). -/

namespace Sys2Proof.Machine

/-- A refusal at decode (R218): the mark and the status, nothing else. -/
def invalidRequest (s : State) : State := raiseError .invalidRequest s

/-- Opcode 0xE (R108). -/
def execReservedE (_rest : BitVec 28) (s : State) : Host.Outcome State Fault Refusal := .next (invalidRequest s)

/-- Opcode 0xF (R108). -/
def execReservedF (_rest : BitVec 28) (s : State) : Host.Outcome State Fault Refusal := .next (invalidRequest s)

end Sys2Proof.Machine
end

