-- ==== Sys2Proof/Machine/Scroll.lean ====
section
/-! DEFINITION. The scroll renderer family: `MERGE_ROW` (R183), `PACK_FRAME` (R184), `SCROLL_START` (R185), `SCROLL_STEP`
(R186), `SCROLL` (R187). -/

namespace Sys2Proof.Machine

/-- `MERGE_ROW` (R183): no event, no precheck (D4). An offset above 8 is the error R183 names. -/
def execMergeRow (c1 c2 offset : Byte) (s : State) : Host.Outcome State Fault Refusal :=
  if offset.toNat ≤ 8 then .next (respond .ok [merge c1 c2 offset.toNat] s)
  else .next (raiseError .invalidRequest s)

/-- The response of `PACK_FRAME` to a legal offset (R184). -/
def packResponse (c1 c2 : Byte) (offset : Nat) (s : State) : State :=
  match lookupPair s.cfg c1 c2 with
  | some (g1, g2) => respond .ok (pack g1 g2 offset) s
  | none => raiseError .missingGlyph s

/-- `PACK_FRAME` (R184): no event, no precheck (D4). -/
def execPackFrame (c1 c2 offset : Byte) (s : State) : Host.Outcome State Fault Refusal :=
  if offset.toNat ≤ 8 then .next (packResponse c1 c2 offset.toNat s)
  else .next (raiseError .invalidRequest s)

/-- `SCROLL_START` (R185). -/
def execScrollStart (msg : List Byte) (delay : Half) (s : State) : Host.Outcome State Fault Refusal :=
  withPrecheck (fun t => .next (respond .ok [] (loadSequencer msg delay t))) s

/-- The frame of a step whose glyphs are there (R186): the delay, the frame, the new position. -/
def scrollFrame (g1 g2 : Glyph) (s : State) : State :=
  transmit true (pacing s ++ txFrame (pack g1 g2 s.rOff.val)) (fun t => respond .ok [] (advanceSequencer t)) s

/-- A step that meets a missing glyph, before any event (R186, R216). -/
def scrollMissing (s : State) : State :=
  raiseError .missingGlyph { s with rStatus := .faulted, rErr := some .missingGlyph }

/-- The step of a running sequencer for one pair of characters (R186). -/
def scrollPair (c1 c2 : Byte) (s : State) : State :=
  match lookupPair s.cfg c1 c2 with
  | some (g1, g2) => scrollFrame g1 g2 s
  | none => scrollMissing s

/-- What `SCROLL_STEP` does after its precheck (R186). -/
def scrollStepBody (s : State) : Host.Outcome State Fault Refusal :=
  match s.rStatus with
  | .idle => .next (respond .done [] s)
  | .done => .next (respond .done [] s)
  | .faulted =>
    match s.rErr with
    | some e => .next (respond e [] s)
    | none => .fault .noRecordedError
  | .running =>
    match currentPair s with
    | some (c1, c2) => .next (scrollPair c1 c2 s)
    | none => .fault .pairPastMessage

/-- The effects and response of a `SCROLL_STEP` (R186), shared with `SCROLL`. -/
def scrollStepOp (s : State) : Host.Outcome State Fault Refusal := withPrecheck scrollStepBody s

/-- `SCROLL_STEP` (R186). -/
def execScrollStep (s : State) : Host.Outcome State Fault Refusal := scrollStepOp s

/-- The loop of `SCROLL` (R187), over at most the number of steps the rule gives. -/
def scrollLoop : Nat → State → Host.Outcome State Fault Refusal
  | 0, _ => .fault .scrollOverrun
  | k + 1, s =>
    match scrollStepOp s with
    | .next t =>
      match t.response with
      | some ⟨.ok, _⟩ => scrollLoop k t
      | some ⟨.done, _⟩ => .next (respond .ok [] t)
      | _ => .next t
    | .fault f => .fault f
    | .refused r => .refused r

/-- The most steps a `SCROLL` of a message of length `len` takes (R187). -/
def scrollBound (len : Nat) : Nat := 8 * (len - 1) + 1

/-- `SCROLL` (R187): the effects of `SCROLL_START`, then steps until `DONE` or an error. -/
def execScroll (msg : List Byte) (delay : Half) (s : State) : Host.Outcome State Fault Refusal :=
  withPrecheck (fun t => scrollLoop (scrollBound msg.length) (loadSequencer msg delay t)) s

end Sys2Proof.Machine
end

