-- ==== Sys2Proof/Machine/Transmission.lean ====
section
/-! DEFINITION. The transmission family: `SEND_BYTE` (R143), `SEND_COMMAND` (R144), `TERMINATE` (R145). -/

namespace Sys2Proof.Machine

/-- `SEND_BYTE` (R143): a byte with no framing, marked `M_UNFRAMED` (R219). -/
def execSendByte (b : Byte) (s : State) : Host.Outcome State Fault Refusal :=
  withPrecheck (fun t => .next (transmit false (txByte b) (respond .ok []) (addMark .unframed t))) s

/-- `SEND_COMMAND` (R144): any byte as a complete transaction. -/
def execSendCommand (c : Byte) (s : State) : Host.Outcome State Fault Refusal :=
  withPrecheck (fun t => .next (transmit false (txCommand c) (respond .ok []) t)) s

/-- `TERMINATE` (R145): the end-of-transfer cue alone, marked `M_UNFRAMED` (R219). -/
def execTerminate (s : State) : Host.Outcome State Fault Refusal :=
  withPrecheck (fun t => .next (transmit false txTerm (respond .ok []) (addMark .unframed t))) s

end Sys2Proof.Machine
end

