-- ==== Sys2Proof/Machine/Wire.lean ====
section
/-! DEFINITION. The wire bytes (R93 to R97): the engine sends the byte with the framing its rule gives it, and the receiver
takes every event as it is emitted (R51). A pin write that fails aborts as R214 says. DESIGN CHOICE: log entry 2. -/

namespace Sys2Proof.Machine

/-- Events of the wire level: no precheck, no response of their own. DESIGN CHOICE (log entry 2): no `M_UNFRAMED` either, also
for an item outside a framed transaction; R219 and R243 give that mark to the requests `SEND_BYTE` and `TERMINATE` alone. -/
def sendWire (es : List Event) (s : State) : State := transmit false es id s

/-- `DATA_AUTO` (R93): its own one-byte transaction. -/
def execDataAuto (s : State) : Host.Outcome State Fault Refusal := .next (sendWire (txCommand 0x40) s)

/-- `DATA_FIXED` (R94): its own one-byte transaction. -/
def execDataFixed (s : State) : Host.Outcome State Fault Refusal := .next (sendWire (txCommand 0x44) s)

/-- `DISP_CTRL` (R95): its own one-byte transaction. -/
def execDispCtrl (active : Bool) (intensity : BitVec 3) (s : State) : Host.Outcome State Fault Refusal :=
  .next (sendWire (txCommand (displayControlByte intensity active)) s)

/-- `ADDR` (R96): the start cue and the first byte of a write transaction, which stays open for its data. -/
def execAddr (offset : BitVec 4) (s : State) : Host.Outcome State Fault Refusal :=
  .next (sendWire (startCue :: txByte (addrCommand offset)) s)

/-- `DATA` (R97): a byte of the open transaction. -/
def execData (b : Byte) (s : State) : Host.Outcome State Fault Refusal := .next (sendWire (txByte b) s)

/-- A wire item that is no row of the table: the terminator (R141), or a reserved first byte, which the block does not check
and sends as a one-byte transaction (R98). -/
def sendWireItem : WireItem → State → State
  | .first b, s => sendWire (txCommand b) s
  | .later b, s => sendWire (txByte b) s
  | .stop, s => sendWire txTerm s

end Sys2Proof.Machine
end

