-- ==== Sys2Proof/Machine/Dispatch.lean ====
section
/-! DEFINITION. One arm per instruction, each one direct call of its meaning. -/

namespace Sys2Proof.Machine

def exec (i : Instr) (s : State) : Host.Outcome State Fault Refusal :=
  match i with
  | .init active level => Sys2Proof.Machine.execInit active level s
  | .sendByte b => Sys2Proof.Machine.execSendByte b s
  | .sendCommand c => Sys2Proof.Machine.execSendCommand c s
  | .sendDataAt a v => Sys2Proof.Machine.execSendDataAt a v s
  | .sendFrame bytes => Sys2Proof.Machine.execSendFrame bytes s
  | .clear => Sys2Proof.Machine.execClear s
  | .terminate => Sys2Proof.Machine.execTerminate s
  | .setBrightness level => Sys2Proof.Machine.execSetBrightness level s
  | .setActive on => Sys2Proof.Machine.execSetActive on s
  | .mergeRow c1 c2 offset => Sys2Proof.Machine.execMergeRow c1 c2 offset s
  | .packFrame c1 c2 offset => Sys2Proof.Machine.execPackFrame c1 c2 offset s
  | .scrollStart msg delay => Sys2Proof.Machine.execScrollStart msg delay s
  | .scrollStep => Sys2Proof.Machine.execScrollStep s
  | .scroll msg delay => Sys2Proof.Machine.execScroll msg delay s
  | .reservedE rest => Sys2Proof.Machine.execReservedE rest s
  | .reservedF rest => Sys2Proof.Machine.execReservedF rest s
  | .dataAuto => Sys2Proof.Machine.execDataAuto s
  | .dataFixed => Sys2Proof.Machine.execDataFixed s
  | .dispCtrl active intensity => Sys2Proof.Machine.execDispCtrl active intensity s
  | .addr offset => Sys2Proof.Machine.execAddr offset s
  | .data b => Sys2Proof.Machine.execData b s

end Sys2Proof.Machine
end

