-- ==== Sys2Proof/WellFormed.lean ====
section
/-! DEFINITION. Which instructions the encoding of R100 to R103 and R112 can carry. -/

namespace Sys2Proof

/-- The checks on operands: a frame or message fits the length field (R103), an offset is `0..8` (R112). -/
def Instr.wellFormed : Instr → Bool
  | .init _ _ => true
  | .sendByte _ => true
  | .sendCommand _ => true
  | .sendDataAt _ _ => true
  | .sendFrame bytes => decide (bytes.length ≤ frameMax)
  | .clear => true
  | .terminate => true
  | .setBrightness _ => true
  | .setActive _ => true
  | .mergeRow _ _ offset => decide (offset.toNat ≤ 8)
  | .packFrame _ _ offset => decide (offset.toNat ≤ 8)
  | .scrollStart msg _ => decide (msg.length ≤ msgMax)
  | .scrollStep => true
  | .scroll msg _ => decide (msg.length ≤ msgMax)
  | .reservedE _ => true
  | .reservedF _ => true
  | .dataAuto => true
  | .dataFixed => true
  | .dispCtrl _ _ => true
  | .addr _ => true
  | .data _ => true

/-- Whether the instruction is a row of the request format (the others are rows of the wire format). -/
def Instr.isRequest : Instr → Bool
  | .init _ _ | .sendByte _ | .sendCommand _ | .sendDataAt _ _ | .sendFrame _ | .clear | .terminate => true
  | .setBrightness _ | .setActive _ | .mergeRow _ _ _ | .packFrame _ _ _ | .scrollStart _ _ => true
  | .scrollStep | .scroll _ _ | .reservedE _ | .reservedF _ => true
  | .dataAuto | .dataFixed | .dispCtrl _ _ | .addr _ | .data _ => false

end Sys2Proof
end

