-- ==== Sys2Proof/Decode.lean ====
section
/-! DEFINITION. The decoder of requests (R100 to R103, R108, R112) and of wire bytes (R93 to R98), and the encoder. -/

namespace Sys2Proof

/-- Why a request or a wire item is no instruction. -/
inductive DecodeError where
  /-- R102: the word fails the mask of its opcode (a must-be-zero bit is set). -/
  | maskMismatch
  /-- R102: the payload's length is not the one the word calls for. -/
  | payloadLength
  /-- R112: the offset of `MERGE_ROW` or `PACK_FRAME` is above 8. -/
  | offsetRange
  /-- R98: a first byte of a transaction that the source gives no meaning. -/
  | reservedWireByte
  /-- R91: the terminator is no byte. -/
  | terminator
deriving DecidableEq, Repr

/-! ### Fields of the request word (R100) -/

/-- `OP`, bits 31:28. -/
def opField (w : Word) : BitVec 4 := w.extractLsb' 28 4
/-- `Z`, bits 27:24. -/
def zField (w : Word) : BitVec 4 := w.extractLsb' 24 4
/-- Operand `A`, bits 23:16. -/
def aField (w : Word) : Byte := w.extractLsb' 16 8
/-- Operand `B`, bits 15:0. -/
def bField (w : Word) : Half := w.extractLsb' 0 16
/-- `B[15:8]`. -/
def bHigh (w : Word) : Byte := w.extractLsb' 8 8
/-- `B[7:0]`. -/
def bLow (w : Word) : Byte := w.extractLsb' 0 8
/-- The 28 bits under the opcode. -/
def restField (w : Word) : BitVec 28 := w.extractLsb' 0 28

/-- `MASK(OP)` of spec/opcode_table.json (R102). -/
def requestMask (op : BitVec 4) : Word :=
  match op.toNat with
  | 0x0 => 0xFFFE0000
  | 0x1 => 0xFFFFFF00
  | 0x2 => 0xFFFFFF00
  | 0x3 => 0xFF00FF00
  | 0x4 => 0xFF00FFFF
  | 0x5 => 0xFFFFFFFF
  | 0x6 => 0xFFFFFFFF
  | 0x7 => 0xFFFF0000
  | 0x8 => 0xFFFEFFFF
  | 0x9 => 0xFF000000
  | 0xA => 0xFF000000
  | 0xB => 0xFF000000
  | 0xC => 0xFFFFFFFF
  | 0xD => 0xFF000000
  | _   => 0xF0000000

/-- `MATCH(OP)` of spec/opcode_table.json (R102): the opcode with zeros under it. -/
def requestMatch (op : BitVec 4) : Word := op ++ (0 : BitVec 28)

/-- Whether the request carries a payload of `A` bytes: `SEND_FRAME`, `SCROLL_START` and `SCROLL` (R99, R102). -/
def takesPayload (op : BitVec 4) : Bool := op == 0x4 || op == 0xB || op == 0xD

/-- The payload length the word calls for (R102). -/
def payloadLength (w : Word) : Nat := if takesPayload (opField w) then (aField w).toNat else 0

/-- The instruction of a word that passed the mask and payload checks: operands by R101, the offset check by R112. -/
def operandsOf (w : Word) (payload : List Byte) : Except DecodeError Instr :=
  match (opField w).toNat with
  | 0x0 => .ok (.init ((aField w).getLsbD 0) (bField w))
  | 0x1 => .ok (.sendByte (bLow w))
  | 0x2 => .ok (.sendCommand (bLow w))
  | 0x3 => .ok (.sendDataAt (aField w) (bLow w))
  | 0x4 => .ok (.sendFrame payload)
  | 0x5 => .ok .clear
  | 0x6 => .ok .terminate
  | 0x7 => .ok (.setBrightness (bField w))
  | 0x8 => .ok (.setActive ((aField w).getLsbD 0))
  | 0x9 => if (aField w).toNat ≤ 8 then .ok (.mergeRow (bLow w) (bHigh w) (aField w)) else .error .offsetRange
  | 0xA => if (aField w).toNat ≤ 8 then .ok (.packFrame (bLow w) (bHigh w) (aField w)) else .error .offsetRange
  | 0xB => .ok (.scrollStart payload (bField w))
  | 0xC => .ok .scrollStep
  | 0xD => .ok (.scroll payload (bField w))
  | 0xE => .ok (.reservedE (restField w))
  | _   => .ok (.reservedF (restField w))

/-- R102: mask and match, then the payload's length, then the value checks. Total (R111). -/
def decodeRequest (w : Word) (payload : List Byte) : Except DecodeError Instr :=
  if w &&& requestMask (opField w) ≠ requestMatch (opField w) then .error .maskMismatch
  else if payload.length ≠ payloadLength w then .error .payloadLength
  else operandsOf w payload

/-- The command class of a wire byte, bits 7:4. -/
def wireClass (b : Byte) : BitVec 4 := b.extractLsb' 4 4

/-- R93 to R98: a first byte is read by its value, a later byte is data by its position. -/
def decodeWire : WireItem → Except DecodeError Instr
  | .first b =>
    if b = 0x40 then .ok .dataAuto
    else if b = 0x44 then .ok .dataFixed
    else if wireClass b = 0x8 then .ok (.dispCtrl (b.getLsbD 3) (b.extractLsb' 0 3))
    else if wireClass b = 0xC then .ok (.addr (b.extractLsb' 0 4))
    else .error .reservedWireByte
  | .later b => .ok (.data b)
  | .stop => .error .terminator

/-- The decoder of whatever stands at the port. -/
def decode : PortItem → Except DecodeError Instr
  | .request w payload => decodeRequest w payload
  | .wire x => decodeWire x

/-! ### Reading a row of spec/opcode_table.json -/

/-- The payload that goes with a word given alone: every bit above the word is 0, so it is the zeros the word calls for. -/
def zeroPayload (w : Word) : List Byte := List.replicate (payloadLength w) 0

/-- The position at which a wire byte given alone is read: first in its transaction if its value has a meaning there,
else after an address command (R97). -/
def wireItemOf (b : Byte) : WireItem :=
  match decodeWire (.first b) with
  | .ok _ => .first b
  | .error _ => .later b

/-- The port item that an opcode-table row's bits stand for: 8 bits are a wire byte, 32 bits a request word. -/
def portItemOf (nbits w : Nat) : PortItem :=
  if nbits ≤ 8 then .wire (wireItemOf (BitVec.ofNat 8 w))
  else .request (BitVec.ofNat 32 w) (zeroPayload (BitVec.ofNat 32 w))

/-- What the decoder reads from an instruction whose bits are `w`. -/
def decodeTableWord (nbits w : Nat) : Option Instr :=
  match decode (portItemOf nbits w) with
  | .ok i => some i
  | .error _ => none

/-! ### The encoder -/

/-- A request word from its fields (R100): `OP`, `Z = 0`, `A`, `B`. -/
def requestWord (op : BitVec 4) (a : Byte) (b : Half) : Word := op ++ (0 : BitVec 4) ++ a ++ b

/-- A Boolean operand as `A`: bit 0, the others 0 (R105). -/
def boolByte (x : Bool) : Byte := (0 : BitVec 7) ++ BitVec.ofBool x

/-- Two bytes as `B`: `B[15:8]` and `B[7:0]`. -/
def pairHalf (high low : Byte) : Half := high ++ low

/-- A byte operand as `B`: `B[15:8] = 0`. -/
def lowHalf (x : Byte) : Half := pairHalf 0 x

/-- The words of an instruction, by the opcode map R101 and the wire formats R93 to R97. -/
def encode : Instr → PortItem
  | .init active level => .request (requestWord 0x0 (boolByte active) level) []
  | .sendByte b => .request (requestWord 0x1 0 (lowHalf b)) []
  | .sendCommand c => .request (requestWord 0x2 0 (lowHalf c)) []
  | .sendDataAt a v => .request (requestWord 0x3 a (lowHalf v)) []
  | .sendFrame bytes => .request (requestWord 0x4 (BitVec.ofNat 8 bytes.length) 0) bytes
  | .clear => .request (requestWord 0x5 0 0) []
  | .terminate => .request (requestWord 0x6 0 0) []
  | .setBrightness level => .request (requestWord 0x7 0 level) []
  | .setActive on => .request (requestWord 0x8 (boolByte on) 0) []
  | .mergeRow c1 c2 offset => .request (requestWord 0x9 offset (pairHalf c2 c1)) []
  | .packFrame c1 c2 offset => .request (requestWord 0xA offset (pairHalf c2 c1)) []
  | .scrollStart msg delay => .request (requestWord 0xB (BitVec.ofNat 8 msg.length) delay) msg
  | .scrollStep => .request (requestWord 0xC 0 0) []
  | .scroll msg delay => .request (requestWord 0xD (BitVec.ofNat 8 msg.length) delay) msg
  | .reservedE rest => .request ((0xE : BitVec 4) ++ rest) []
  | .reservedF rest => .request ((0xF : BitVec 4) ++ rest) []
  | .dataAuto => .wire (.first 0x40)
  | .dataFixed => .wire (.first 0x44)
  | .dispCtrl active intensity => .wire (.first ((0x8 : BitVec 4) ++ BitVec.ofBool active ++ intensity))
  | .addr offset => .wire (.first ((0xC : BitVec 4) ++ offset))
  | .data b => .wire (.later b)

end Sys2Proof
end

