-- ==== Sys2Proof/Machine/Fetch.lean ====
section
/-! DEFINITION. The request port: what the block takes up next, and what happens around the meaning of an instruction
(R99, R102, R218). -/

namespace Sys2Proof.Machine

/-- The item is taken from the port. -/
def takeInput (rest : List PortItem) (s : State) : State := { s with input := rest }

/-- A request has been served: the next one has the next index (R30). -/
def closeRequest (s : State) : State := { s with reqIndex := s.reqIndex + 1 }

/-- The same on an outcome. -/
def closeOutcome : Host.Outcome State Fault Refusal → Host.Outcome State Fault Refusal
  | .next t => .next (closeRequest t)
  | .fault f => .fault f
  | .refused r => .refused r

/-- What a port item that decodes to no instruction does: a request is refused with `E_INVALID_REQUEST` (R102, R218), a wire
item is sent as it stands (R98). -/
def undecoded (x : PortItem) (s : State) : State :=
  match x with
  | .request _ _ => closeRequest (invalidRequest s)
  | .wire y => sendWireItem y s

/-- What follows the meaning of an instruction: a request is counted, a wire item is not. -/
def afterExec (x : PortItem) (o : Host.Outcome State Fault Refusal) : Host.Outcome State Fault Refusal :=
  match x with
  | .request _ _ => closeOutcome o
  | .wire _ => o

/-- A port item placed to be taken up next. -/
def offerItem (x : PortItem) (s : State) : State := { s with input := x :: s.input }

end Sys2Proof.Machine
end

