-- ==== Sys2Proof/Machine/Step.lean ====
section
/-! DEFINITION. One step: the block takes the oldest item at the port, decodes it and runs it to completion (R11, R99). -/

namespace Sys2Proof.Machine

/-- One step. With nothing at the port the block is idle and nothing changes (R230). -/
def step (s : State) : Host.Outcome State Fault Refusal :=
  match s.input with
  | [] => .next s
  | x :: rest =>
    match decode x with
    | .ok i => afterExec x (exec i (takeInput rest s))
    | .error _ => .next (undecoded x (takeInput rest s))

/-- The instruction of an opcode-table row's bits, placed at the port to be taken up next. -/
def State.withFetchWord (s : State) (nbits w : Nat) : State := offerItem (portItemOf nbits w) s

end Sys2Proof.Machine
end

