-- ==== Sys2Proof/Safety.lean ====
section
/-! DEFINITION. What counts as a good state and a clean run, in the terms the statements use. -/

namespace Sys2Proof.Machine

/-- The display RAM is in canonical form and lists only offsets `0..ADDR_COUNT-1` (R60). -/
def RamLegal (s : State) : Prop := Memory.wf s.rx.ram = true ∧ ∀ c ∈ s.rx.ram, c.1 < s.cfg.addrCount

/-- The scroll unit's registers are as R31, R32 and R193 say: while running a frame remains, a fault records its error, the
other states record none, the count of frames is the position's, and `Done` is past the last pair. -/
def SequencerLegal (s : State) : Prop :=
  s.rMsg.length ≤ msgMax ∧
  s.rSent = 8 * s.rPair + s.rOff.val ∧
  match s.rStatus with
  | .idle => s.rMsg = [] ∧ s.rSent = 0 ∧ s.rErr = none
  | .running => s.rPair + 1 < s.rMsg.length ∧ s.rErr = none
  | .done => (s.rMsg.length < 2 ∧ s.rSent = 0 ∨ s.rPair + 1 = s.rMsg.length ∧ s.rOff = 0) ∧ s.rErr = none
  | .faulted => s.rPair + 1 < s.rMsg.length ∧ (s.rErr = some .missingGlyph ∨ s.rErr = some .hardwareIo)

/-- Between two requests the receiver has lost the framing and knows nothing of the controller (R62, R67), or is idle with
both lines high (R36), or, at the wire level only, stands at a byte boundary of an open transaction (R65). Once `INIT` has
completed, a receiver that is lost has left a mark (R220). -/
def WireLegal (s : State) : Prop :=
  (s.rx.phase = .lost ∧ s.rx.ram = [] ∧ s.rx.mode = none ∧ s.rx.disp = none ∧ (s.initDone = true → s.marks ≠ []) ∨
   s.rx.phase = .idle ∧ s.clk = some true ∧ s.dio = some true ∨
   s.rx.phase = .txB ∧ s.rx.nbits = 0 ∧ s.rx.acc = 0 ∧ s.rx.bytes ≠ [] ∧ s.clk = some true)

/-- `CORRUPTED` is set only by a hardware I/O failure, which `IO_FAULTS` allows and a mark records (R29, R214). -/
def CorruptionMarked (s : State) : Prop :=
  s.corrupted = true → s.cfg.ioFaults = true ∧ ∃ m ∈ s.marks, m.kind = .hardwareIo

/-- No mark names a request that has not begun (R30). -/
def MarksLegal (s : State) : Prop := ∀ m ∈ s.marks, m.request ≤ s.reqIndex

/-- The premise every claim about a program takes (R30, R231). -/
def CleanRun (s : State) : Prop := s.marks = []

/-- The engine is ready to serve: an `INIT` has completed and no hardware I/O failure stands (R221). -/
def Ready (s : State) : Prop := s.initDone = true ∧ s.corrupted = false

end Sys2Proof.Machine
end

