-- ==== Sys2Proof/Certificates/Slice0/Obligations.lean ====
section
/-! DEFINITION. The statements for the provers, with the words of the spec they are written in: bit ranges, bit slots,
transactions, and what a request leaves alone. -/

namespace Sys2Proof.Machine.Stated

/-! ### Notation of the spec (R9, R91) -/

/-- `v[hi:lo]` as an unsigned value (R9). -/
def bits (w : Word) (hi lo : Nat) : Nat := w.toNat / 2 ^ lo % 2 ^ (hi - lo + 1)

/-- The events of a byte: eight bit slots, least significant bit first (R91). -/
def byteEvents (b : Byte) : List Event :=
  (List.range 8).flatMap fun k => [.setClk false, .setDat (b.getLsbD k), .setClk true]

/-- The terminator (R91). -/
def terminator : List Event := [.setDat false, .setClk false, .setClk true, .setDat true]

/-- A transaction: start cue, bytes in order, terminator (R91). -/
def transaction (bytes : List Byte) : List Event := .setDat false :: (bytes.flatMap byteEvents ++ terminator)

/-- The two transactions of a frame write (R150). -/
def frameEvents (bytes : List Byte) : List Event := transaction [0x40] ++ transaction (0xC0 :: bytes)

/-- The display-control byte as a number (R95): `1000_AIII`. -/
def displayByte (intensity : BitVec 3) (active : Bool) : Byte :=
  BitVec.ofNat 8 (128 + (if active then 8 else 0) + intensity.toNat)

/-- The line a pin write drives; a delay drives none (R51). -/
def drivenLine : Event → Option Line
  | .setClk _ => some .clk
  | .setDat _ => some .dio
  | _ => none

/-- How many pin writes are among some events. -/
def pinWrites (es : List Event) : Nat := es.countP fun e => (drivenLine e).isSome

/-- How many delays are among some events. -/
def sleeps (es : List Event) : Nat :=
  es.countP fun e => match e with
    | .sleep _ => true
    | _ => false

/-- A merged row bit by bit (R180). -/
def mergedRow (c1 c2 : Byte) (offset : Nat) (m : Byte) : Prop :=
  ∀ j < 8, m.getLsbD j = if j < 8 - offset then c1.getLsbD (j + offset) else c2.getLsbD (j - (8 - offset))

/-- The frame `n` of a scroll (R188), for characters that have glyphs. -/
def scrollFrameAt (cfg : Config) (msg : List Byte) (n : Nat) : List Byte :=
  match lookupGlyph cfg (msg.getD (n / 8) 0), lookupGlyph cfg (msg.getD (n / 8 + 1) 0) with
  | some g1, some g2 => pack g1 g2 (n % 8)
  | _, _ => []

/-- The events of the first `count` frames of a scroll: a delay before every frame but the first (R186, R188). -/
def scrollEvents (cfg : Config) (msg : List Byte) (delay : Half) (count : Nat) : List Event :=
  (List.range count).flatMap fun n =>
    (if n = 0 then [] else [.sleep delay]) ++ frameEvents (scrollFrameAt cfg msg n)

/-! ### What a request leaves alone -/

/-- The parameters, the port and the request count. -/
def SamePort (s t : State) : Prop := t.cfg = s.cfg ∧ t.input = s.input ∧ t.reqIndex = s.reqIndex

/-- The pin-write draws. -/
def SameDraws (s t : State) : Prop := t.pinDraws = s.pinDraws ∧ t.drawIndex = s.drawIndex

/-- The engine's registers other than the lines. -/
def SameEngine (s t : State) : Prop :=
  t.intensity = s.intensity ∧ t.active = s.active ∧ t.initDone = s.initDone ∧ t.corrupted = s.corrupted

/-- The scroll unit's registers. -/
def SameSequencer (s t : State) : Prop :=
  t.rStatus = s.rStatus ∧ t.rMsg = s.rMsg ∧ t.rDelay = s.rDelay ∧ t.rPair = s.rPair ∧ t.rOff = s.rOff ∧
    t.rSent = s.rSent ∧ t.rErr = s.rErr

/-- The request answered `OK` with no result and left everything but the wire alone. -/
def AnsweredOk (s t : State) : Prop :=
  t.response = some ⟨.ok, []⟩ ∧ SamePort s t ∧ SameDraws s t

/-- Every display offset reads as before. -/
def SameRam (s t : State) : Prop := ∀ k, Memory.read t.rx.ram k = Memory.read s.rx.ram k

/-- The controller is wholly unknown (R67, R72). -/
def ControllerUnknown (t : State) : Prop :=
  (∀ k, Memory.read t.rx.ram k = none) ∧ t.rx.mode = none ∧ t.rx.disp = none

/-- The receiver stands idle with the clock high, where a start cue is one (R244). -/
def ReceiverIdle (s : State) : Prop := s.rx.phase = .idle ∧ s.clk = some true

/-- Both lines are high. -/
def LinesHigh (t : State) : Prop := t.clk = some true ∧ t.dio = some true

/-- The marks are those before with `more` after them, all under the index of this request. -/
def MarksAdd (s t : State) (more : List MarkKind) : Prop :=
  t.marks = s.marks ++ more.map fun k => ⟨k, s.reqIndex⟩

/-- No pin write can fail (R5: the value for this hardware). -/
def NoIoFaults (s : State) : Prop := s.cfg.ioFaults = false

/-- The requests that begin with `precheck_driver` (R221): all but `INIT`, `MERGE_ROW` and `PACK_FRAME`. -/
def usesPrecheck : Instr → Bool
  | .sendByte _ | .sendCommand _ | .sendDataAt _ _ | .sendFrame _ | .clear | .terminate => true
  | .setBrightness _ | .setActive _ | .scrollStart _ _ | .scrollStep | .scroll _ _ => true
  | .init _ _ | .mergeRow _ _ _ | .packFrame _ _ _ | .reservedE _ | .reservedF _ => false
  | .dataAuto | .dataFixed | .dispCtrl _ _ | .addr _ | .data _ => false

/-- The requests that may write the scroll unit's registers (R31). -/
def movesSequencer : Instr → Bool
  | .init _ _ | .scrollStart _ _ | .scrollStep | .scroll _ _ => true
  | .sendByte _ | .sendCommand _ | .sendDataAt _ _ | .sendFrame _ | .clear | .terminate => false
  | .setBrightness _ | .setActive _ | .mergeRow _ _ _ | .packFrame _ _ _ | .reservedE _ | .reservedF _ => false
  | .dataAuto | .dataFixed | .dispCtrl _ _ | .addr _ | .data _ => false

/-- What the fields of a word and its payload must be for each request (R100, R101, R102, R112). -/
def FieldsOf (w : Word) (p : List Byte) : Instr → Prop
  | .init active level => bits w 31 17 = 0 ∧ bits w 16 16 = active.toNat ∧ bits w 15 0 = level.toNat ∧ p = []
  | .sendByte b => bits w 31 8 = 0x100000 ∧ bits w 7 0 = b.toNat ∧ p = []
  | .sendCommand c => bits w 31 8 = 0x200000 ∧ bits w 7 0 = c.toNat ∧ p = []
  | .sendDataAt a v =>
      bits w 31 24 = 0x30 ∧ bits w 23 16 = a.toNat ∧ bits w 15 8 = 0 ∧ bits w 7 0 = v.toNat ∧ p = []
  | .sendFrame bytes => bits w 31 24 = 0x40 ∧ bits w 23 16 = bytes.length ∧ bits w 15 0 = 0 ∧ p = bytes
  | .clear => w = 0x50000000 ∧ p = []
  | .terminate => w = 0x60000000 ∧ p = []
  | .setBrightness level => bits w 31 16 = 0x7000 ∧ bits w 15 0 = level.toNat ∧ p = []
  | .setActive on => bits w 31 17 = 0x4000 ∧ bits w 16 16 = on.toNat ∧ bits w 15 0 = 0 ∧ p = []
  | .mergeRow c1 c2 o =>
      bits w 31 24 = 0x90 ∧ bits w 23 16 = o.toNat ∧ o.toNat ≤ 8 ∧ bits w 15 8 = c2.toNat ∧ bits w 7 0 = c1.toNat ∧ p = []
  | .packFrame c1 c2 o =>
      bits w 31 24 = 0xA0 ∧ bits w 23 16 = o.toNat ∧ o.toNat ≤ 8 ∧ bits w 15 8 = c2.toNat ∧ bits w 7 0 = c1.toNat ∧ p = []
  | .scrollStart msg delay => bits w 31 24 = 0xB0 ∧ bits w 23 16 = msg.length ∧ bits w 15 0 = delay.toNat ∧ p = msg
  | .scrollStep => w = 0xC0000000 ∧ p = []
  | .scroll msg delay => bits w 31 24 = 0xD0 ∧ bits w 23 16 = msg.length ∧ bits w 15 0 = delay.toNat ∧ p = msg
  | .reservedE rest => bits w 31 28 = 0xE ∧ bits w 27 0 = rest.toNat ∧ p = []
  | .reservedF rest => bits w 31 28 = 0xF ∧ bits w 27 0 = rest.toNat ∧ p = []
  | .dataAuto | .dataFixed | .dispCtrl _ _ | .addr _ | .data _ => False

/-- The frame of a glyph pair, with the delay before it unless it is the first of its scroll (R186). -/
def stepFrameEvents (s : State) : Option Glyph → Option Glyph → List Event
  | some g1, some g2 => (if 0 < s.rSent then [.sleep s.rDelay] else []) ++ frameEvents (pack g1 g2 s.rOff.val)
  | _, _ => []

/-- The events of a `SCROLL_STEP` (R186): none unless the sequencer is running and both glyphs are there. -/
def scrollStepEvents (s : State) : List Event :=
  match s.rStatus, s.rMsg[s.rPair]?, s.rMsg[s.rPair + 1]? with
  | .running, some c1, some c2 => stepFrameEvents s (lookupGlyph s.cfg c1) (lookupGlyph s.cfg c2)
  | _, _, _ => []

/-- How many pairs of a message, from its start, have both their glyphs. -/
def leadingPairs (cfg : Config) : List Byte → Nat
  | c1 :: c2 :: msg =>
    if lookupGlyph cfg c1 ≠ none ∧ lookupGlyph cfg c2 ≠ none then leadingPairs cfg (c2 :: msg) + 1 else 0
  | _ => 0

/-- The pin and delay events of a request that meets no failed pin write, from its state (R130, R143 to R145, R151 to R153,
R170 to R172, R186, R187); the requests that emit nothing have none. A `SCROLL` sends the 8 frames of each pair up to the first
missing glyph. -/
def requestEvents (s : State) : Instr → List Event
  | .init active level =>
      [.setClk false, .setClk true, .setDat true] ++ frameEvents (List.replicate s.cfg.frameN 0) ++
        transaction [displayByte (clampLevel level.toInt) active]
  | .sendByte b => byteEvents b
  | .sendCommand c => transaction [c]
  | .sendDataAt a v => transaction [0x44] ++ transaction [0xC0 ||| a, v]
  | .sendFrame bytes => frameEvents bytes
  | .clear => frameEvents (List.replicate s.cfg.frameN 0)
  | .terminate => terminator
  | .setBrightness level => transaction [displayByte (clampLevel level.toInt) s.active]
  | .setActive on => transaction [displayByte s.intensity on]
  | .scrollStep => scrollStepEvents s
  | .scroll msg delay => scrollEvents s.cfg msg delay (8 * leadingPairs s.cfg msg)
  | .mergeRow _ _ _ | .packFrame _ _ _ | .scrollStart _ _ | .reservedE _ | .reservedF _ => []
  | .dataAuto | .dataFixed | .dispCtrl _ _ | .addr _ | .data _ => []

/-- The scroll unit's registers at their idle values (R130). -/
def SequencerCleared (t : State) : Prop :=
  t.rStatus = .idle ∧ t.rMsg = [] ∧ t.rDelay = 0 ∧ t.rPair = 0 ∧ t.rOff = 0 ∧ t.rSent = 0 ∧ t.rErr = none

/-- `k` `SCROLL_STEP`s, one after the other, from an outcome. -/
def afterSteps : Nat → Host.Outcome State Fault Refusal → Host.Outcome State Fault Refusal
  | 0, o => o
  | k + 1, .next t => afterSteps k (exec .scrollStep t)
  | _ + 1, .fault f => .fault f
  | _ + 1, .refused r => .refused r

end Sys2Proof.Machine.Stated

open Sys2Proof Sys2Proof.Machine Sys2Proof.Machine.Stated

/-! ## Encoding -/

/-- R111: encoding an instruction with operands in range and decoding it gives the same instruction back, for all 21 rows. The
rows of the wire level as port items and the reserved opcodes as instructions are the model's choice (log entries 2 and 13). -/
def Obligations.DecodeOfEncode : Prop :=
  ∀ i : Instr, i.wellFormed = true → decode (encode i) = .ok i

/-- R111: a port item that decodes is exactly what the encoder writes for its instruction, so each item has one meaning. The
items of the wire level are the model's choice (log entry 2). -/
def Obligations.EncodeOfDecode : Prop :=
  ∀ (x : PortItem) (i : Instr), decode x = .ok i → encode i = x ∧ i.wellFormed = true

/-- R101, R102, R112: a word and payload decode to a request exactly when their fields are that request's. That a reserved
opcode is an instruction of its own is the model's choice (log entry 13). -/
def Obligations.RequestDecodesByItsFields : Prop :=
  ∀ (w : Word) (p : List Byte) (i : Instr), decodeRequest w p = .ok i ↔ FieldsOf w p i

/-- R93 to R98: what each first byte of a transaction is, and that a later byte is data. The items of the wire level are the
model's choice (log entry 2). -/
def Obligations.WireBytesDecodeByValueAndPosition : Prop :=
  (∀ b : Byte, decodeWire (.later b) = .ok (.data b)) ∧
  decodeWire (.first 0x40) = .ok .dataAuto ∧ decodeWire (.first 0x44) = .ok .dataFixed ∧
  (∀ (active : Bool) (i : BitVec 3), decodeWire (.first (displayByte i active)) = .ok (.dispCtrl active i)) ∧
  (∀ o : BitVec 4, decodeWire (.first (BitVec.ofNat 8 (0xC0 + o.toNat))) = .ok (.addr o)) ∧
  (∀ b : Byte, b ≠ 0x40 → b ≠ 0x44 → b.toNat / 16 ≠ 8 → b.toNat / 16 ≠ 12 →
    decodeWire (.first b) = .error .reservedWireByte)

/-- 95_test_vectors.md: words of every family, written from their encodings, decode to what they stand for. That a table word
alone has a payload of zeros, so that `0x40020000` stands for two zero bytes, is log entry 13; that `0x8F` and `0xC3` alone are
read as first bytes is log entry 2. -/
def Obligations.SampleWordsDecode : Prop :=
  decodeTableWord 32 0x00010007 = some (.init true 7) ∧
  decodeTableWord 32 0x100000A5 = some (.sendByte 0xA5) ∧
  decodeTableWord 32 0x2000008F = some (.sendCommand 0x8F) ∧
  decodeTableWord 32 0x30030081 = some (.sendDataAt 3 0x81) ∧
  decodeTableWord 32 0x40020000 = some (.sendFrame [0, 0]) ∧
  decodeTableWord 32 0x7000FFFB = some (.setBrightness 0xFFFB) ∧
  decodeTableWord 32 0x80010000 = some (.setActive true) ∧
  decodeTableWord 32 0x90048181 = some (.mergeRow 0x81 0x81 4) ∧
  decodeTableWord 32 0xA0034241 = some (.packFrame 0x41 0x42 3) ∧
  decodeTableWord 32 0xC0000000 = some .scrollStep ∧
  decodeTableWord 8 0x8F = some (.dispCtrl true 7) ∧
  decodeTableWord 8 0xC3 = some (.addr 3)

/-! ## One step -/

/-- R11, R99: when the item at the port decodes to an instruction, the step is that instruction's meaning on the state with
the item taken; a request is then counted, a wire item is not. The port as a list in the state, its wire items and the request
count are the model's choice (log entries 1, 2 and 7). -/
def Obligations.StepRunsDecodedItem : Prop :=
  ∀ (x : PortItem) (rest : List PortItem) (i : Instr) (s : State), s.input = x :: rest → decode x = .ok i →
    step s = match exec i { s with input := rest } with
      | .next t => .next (match x with
        | .request _ _ => { t with reqIndex := t.reqIndex + 1 }
        | .wire _ => t)
      | .fault f => .fault f
      | .refused r => .refused r

/-- R218, with the model's port: a request that fails decoding is refused with `E_INVALID_REQUEST` and its mark, and no other
state of the block changes. That it is taken from `State.input` and counted in `State.reqIndex` is the model's choice (log
entries 1 and 7). -/
def Obligations.UndecodableRequestIsRefused : Prop :=
  ∀ (w : Word) (p : List Byte) (rest : List PortItem) (s : State) (e : DecodeError),
    s.input = .request w p :: rest → decodeRequest w p = .error e →
    step s = .next { s with
      input := rest
      marks := s.marks ++ [⟨.invalidRequest, s.reqIndex⟩]
      response := some ⟨.invalidRequest, []⟩
      reqIndex := s.reqIndex + 1 }

/-- The model's choices for a step that runs no instruction: with nothing at the port it changes nothing (log entry 1), the
terminator item sends the four events of R141, and a reserved first byte is sent unchecked as a one-byte transaction (R98, log
entry 2). -/
def Obligations.StepWithoutInstruction : Prop :=
  ∀ (rest : List PortItem) (s : State),
    (s.input = [] → step s = .next s) ∧
    (NoIoFaults s → s.input = .wire .stop :: rest →
      ∃ t, step s = .next t ∧ t.input = rest ∧ t.trace = s.trace ++ terminator) ∧
    (∀ b : Byte, NoIoFaults s → s.input = .wire (.first b) :: rest → decodeWire (.first b) = .error .reservedWireByte →
      ∃ t, step s = .next t ∧ t.input = rest ∧ t.trace = s.trace ++ transaction [b])

/-! ## Power-up -/

/-- R240: the power-up values the spec states. -/
def Obligations.PowerUpState : Prop :=
  State.reset.clk = none ∧ State.reset.dio = none ∧ State.reset.initDone = false ∧ State.reset.corrupted = false ∧
  State.reset.marks = [] ∧ SequencerCleared State.reset ∧ State.reset.trace = [] ∧
  State.reset.rx.phase = .lost ∧ ControllerUnknown State.reset

/-- The invariants below hold at power-up. -/
def Obligations.PowerUpMeetsInvariants : Prop :=
  RamLegal State.reset ∧ SequencerLegal State.reset ∧ WireLegal State.reset ∧ CorruptionMarked State.reset ∧
    MarksLegal State.reset

/-! ## Invariants every step keeps -/

/-- R60, R70, R71: the display RAM stays in canonical form, inside the offsets the controller has. -/
def Obligations.StepKeepsRamLegal : Prop := ∀ s t : State, RamLegal s → step s = .next t → RamLegal t

/-- R31, R32, R193: the scroll unit's registers stay as the rules say. -/
def Obligations.StepKeepsSequencerLegal : Prop :=
  ∀ s t : State, SequencerLegal s → step s = .next t → SequencerLegal t

/-- R36, R62, R65, R67: between two steps the receiver is lost, idle with both lines high, or at a byte boundary. The last of
these arises only from the wire items, the model's choice (log entry 2). -/
def Obligations.StepKeepsWireLegal : Prop := ∀ s t : State, WireLegal s → step s = .next t → WireLegal t

/-- R29, R30: corruption keeps its ground and its mark, and marks keep legal indices. -/
def Obligations.StepKeepsMarksLegal : Prop :=
  ∀ s t : State, CorruptionMarked s → MarksLegal s → step s = .next t → CorruptionMarked t ∧ MarksLegal t

/-- Log entry 9: with legal scroll-unit registers no step faults and none is refused. -/
def Obligations.LegalStepAlwaysAnswers : Prop := ∀ s : State, SequencerLegal s → ∃ t, step s = .next t

/-- R28, R30, R35, R231: no step removes a mark or an event, changes a parameter or takes `INIT_DONE` back. -/
def Obligations.StepKeepsHistory : Prop :=
  ∀ s t : State, step s = .next t →
    s.marks <+: t.marks ∧ s.trace <+: t.trace ∧ t.cfg = s.cfg ∧ (s.initDone = true → t.initDone = true)

/-- R36: after every request, if `INIT_DONE` and not `CORRUPTED` and `MARKS` is empty, both lines are high. -/
def Obligations.RequestKeepsIdleLines : Prop :=
  ∀ (i : Instr) (s t : State), i.isRequest = true → exec i s = .next t →
    (s.initDone = true → s.corrupted = false → s.marks = [] → LinesHigh s) →
    (t.initDone = true → t.corrupted = false → t.marks = [] → LinesHigh t)

/-! ## Who writes what -/

/-- R31, R190: only `INIT`, `SCROLL_START`, `SCROLL_STEP` and `SCROLL` write the scroll unit's registers. -/
def Obligations.OnlyScrollRequestsMoveSequencer : Prop :=
  ∀ (i : Instr) (s t : State), movesSequencer i = false → exec i s = .next t → SameSequencer s t

/-- R32: only `SCROLL_START`, `SCROLL` and `INIT` leave `Done` or `Faulted`. -/
def Obligations.DoneAndFaultedAreTerminal : Prop :=
  ∀ (i : Instr) (s t : State), exec i s = .next t → s.rStatus = .done ∨ s.rStatus = .faulted →
    t.rStatus = s.rStatus ∨ (∃ a l, i = .init a l) ∨ (∃ m d, i = .scrollStart m d) ∨ (∃ m d, i = .scroll m d)

/-- R25, R26, R28, R29: who writes INTENSITY and ACTIVE, and that only `INIT` sets `INIT_DONE` or clears `CORRUPTED`. -/
def Obligations.WritersOfEngineRegisters : Prop :=
  ∀ (i : Instr) (s t : State), exec i s = .next t →
    (t.intensity = s.intensity ∨ (∃ a l, i = .init a l) ∨ (∃ l, i = .setBrightness l)) ∧
    (t.active = s.active ∨ (∃ a l, i = .init a l) ∨ (∃ on, i = .setActive on)) ∧
    (t.initDone = s.initDone ∨ ∃ a l, i = .init a l) ∧
    (s.corrupted = true → t.corrupted = true ∨ ∃ a l, i = .init a l)

/-- R22, R23, R30, R34, R59: no request reads the lines, the marks, the trace, the controller, the receiver or an earlier
response: two states that differ only there give the same answer, the same registers and the same new events. -/
def Obligations.RequestsReadNoObserver : Prop :=
  ∀ (i : Instr) (s s' t : State), i.isRequest = true →
    s' = { s with clk := s'.clk, dio := s'.dio, marks := s'.marks, trace := s'.trace, rx := s'.rx,
                  response := s'.response, reqIndex := s'.reqIndex, input := s'.input } →
    exec i s = .next t →
    ∃ t' es, exec i s' = .next t' ∧ t'.response = t.response ∧ SameEngine t t' ∧ SameSequencer t t' ∧ SameDraws t t' ∧
      t.trace = s.trace ++ es ∧ t'.trace = s'.trace ++ es

/-! ## The requests -/

/-- R130, R241: `INIT`. The receiver's part holds where a request may find it, lost or idle (R36). -/
def Obligations.InitResult : Prop :=
  ∀ (active : Bool) (level : Half) (s : State), NoIoFaults s →
    ∃ t, exec (.init active level) s = .next t ∧
      t.trace = s.trace ++ requestEvents s (.init active level) ∧
      t.trace.length = s.trace.length + (90 + 24 * s.cfg.frameN) ∧
      LinesHigh t ∧ (t.intensity.toNat : Int) = min (max level.toInt 0) 7 ∧ t.active = active ∧
      t.initDone = true ∧ t.corrupted = false ∧ SequencerCleared t ∧ AnsweredOk s t ∧ s.marks <+: t.marks ∧
      (s.rx.phase = .lost ∨ s.rx.phase = .idle →
        t.rx.phase = .idle ∧ t.rx.disp = some (t.intensity, active) ∧
        (if 1 ≤ s.cfg.frameN ∧ s.cfg.frameN ≤ s.cfg.addrCount then
          t.rx.mode = some .auto ∧ MarksAdd s t [] ∧
          ∀ k, Memory.read t.rx.ram k = if k < s.cfg.frameN then some 0 else Memory.read s.rx.ram k
         else t.rx.mode = none ∧ MarksAdd s t [.controllerUndefined] ∧ ∀ k, Memory.read t.rx.ram k = none))

/-- R143, R219: `SEND_BYTE`. An idle receiver is left as it was by `0xFF` and lost by any other byte. -/
def Obligations.SendByteResult : Prop :=
  ∀ (b : Byte) (s : State), NoIoFaults s → Ready s →
    ∃ t, exec (.sendByte b) s = .next t ∧ t.trace = s.trace ++ byteEvents b ∧
      t.clk = some true ∧ t.dio = some (b.getLsbD 7) ∧ AnsweredOk s t ∧ SameEngine s t ∧ SameSequencer s t ∧
      s.marks ++ [⟨.unframed, s.reqIndex⟩] <+: t.marks ∧
      (s.rx.phase = .idle → b = 0xFF → t.rx = s.rx ∧ MarksAdd s t [.unframed]) ∧
      (s.rx.phase = .idle → b ≠ 0xFF →
        t.rx.phase = .lost ∧ ControllerUnknown t ∧ MarksAdd s t [.unframed, .controllerUndefined]) ∧
      (s.rx.phase = .lost → t.rx = s.rx ∧ MarksAdd s t [.unframed])

/-- R142, R144: `SEND_COMMAND`, with what an idle receiver makes of every byte and a lost one of none. -/
def Obligations.SendCommandResult : Prop :=
  ∀ (c : Byte) (s : State), NoIoFaults s → Ready s →
    ∃ t, exec (.sendCommand c) s = .next t ∧ t.trace = s.trace ++ transaction [c] ∧
      LinesHigh t ∧ AnsweredOk s t ∧ SameEngine s t ∧ SameSequencer s t ∧ s.marks <+: t.marks ∧
      (ReceiverIdle s → t.rx.phase = .idle ∧
        (if c = 0x40 then t.rx.mode = some .auto ∧ SameRam s t ∧ t.rx.disp = s.rx.disp ∧ MarksAdd s t []
         else if c = 0x44 then t.rx.mode = some .fixed ∧ SameRam s t ∧ t.rx.disp = s.rx.disp ∧ MarksAdd s t []
         else if c.toNat / 16 = 8 then
          t.rx.disp = some (BitVec.ofNat 3 (c.toNat % 8), c.getLsbD 3) ∧ t.rx.mode = s.rx.mode ∧ SameRam s t ∧ MarksAdd s t []
         else ControllerUnknown t ∧ MarksAdd s t [.controllerUndefined])) ∧
      (s.rx.phase = .lost → s.clk = some true → t.rx = { s.rx with phase := .idle } ∧ MarksAdd s t [])

/-- R145, R219: `TERMINATE`. An idle receiver reads the cue as a start and is lost; a lost one is idle after it. -/
def Obligations.TerminateResult : Prop :=
  ∀ s : State, NoIoFaults s → Ready s →
    ∃ t, exec .terminate s = .next t ∧ t.trace = s.trace ++ terminator ∧
      LinesHigh t ∧ AnsweredOk s t ∧ SameEngine s t ∧ SameSequencer s t ∧
      s.marks ++ [⟨.unframed, s.reqIndex⟩] <+: t.marks ∧
      (ReceiverIdle s → t.rx.phase = .lost ∧ ControllerUnknown t ∧ MarksAdd s t [.unframed, .controllerUndefined]) ∧
      (s.rx.phase = .lost → t.rx = { s.rx with phase := .idle } ∧ MarksAdd s t [.unframed])

/-- R151, R106, R213: `SEND_DATA_AT`. The offset stored to is the low half of the address byte `0xC0 | a`, where that byte is
an address command and the controller has the offset; else the controller becomes unknown. The block never refuses. -/
def Obligations.SendDataAtResult : Prop :=
  ∀ (a v : Byte) (s : State), NoIoFaults s → Ready s →
    ∃ t, exec (.sendDataAt a v) s = .next t ∧
      t.trace = s.trace ++ (transaction [0x44] ++ transaction [0xC0 ||| a, v]) ∧
      LinesHigh t ∧ AnsweredOk s t ∧ SameEngine s t ∧ SameSequencer s t ∧
      (s.cfg.addrCount ≤ a.toNat → s.marks ++ [⟨.invalidAddress, s.reqIndex⟩] <+: t.marks) ∧
      (ReceiverIdle s → t.rx.phase = .idle ∧
        (if (0xC0 ||| a).toNat / 16 = 12 ∧ (0xC0 ||| a).toNat % 16 < s.cfg.addrCount then
          t.rx.mode = some .fixed ∧ t.rx.disp = s.rx.disp ∧
          MarksAdd s t (if s.cfg.addrCount ≤ a.toNat then [.invalidAddress] else []) ∧
          ∀ k, Memory.read t.rx.ram k = if k = (0xC0 ||| a).toNat % 16 then some v else Memory.read s.rx.ram k
         else ControllerUnknown t ∧
          MarksAdd s t (if s.cfg.addrCount ≤ a.toNat then [.invalidAddress, .controllerUndefined] else [.controllerUndefined]))) ∧
      (s.rx.phase = .lost → s.clk = some true → s.rx.mode = none →
        t.rx.phase = .idle ∧ ControllerUnknown t ∧ MarksAdd s t (if s.cfg.addrCount ≤ a.toNat then [.invalidAddress, .controllerUndefined] else [.controllerUndefined]))

/-- R106: the address byte for every operand: `0xC0 + a` up to 63, an address command for `a` only up to 15, and above 63 the
two top bits of `a` are lost. -/
def Obligations.AddressByteByRange : Prop :=
  ∀ a : Byte,
    (a.toNat ≤ 15 → (addrByte a).toNat = 0xC0 + a.toNat) ∧
    (16 ≤ a.toNat ∧ a.toNat ≤ 63 → (addrByte a).toNat = 0xC0 + a.toNat ∧ 0xD0 ≤ (addrByte a).toNat) ∧
    (64 ≤ a.toNat → (addrByte a).toNat = 0xC0 + a.toNat % 64)

/-- R150, R152, R153: `SEND_FRAME`, and `CLEAR` with `FRAME_N` zero bytes. -/
def Obligations.FrameWriteResult : Prop :=
  ∀ (i : Instr) (bytes : List Byte) (s : State), NoIoFaults s → Ready s →
    (i = .sendFrame bytes ∨ i = .clear ∧ bytes = List.replicate s.cfg.frameN 0) →
    ∃ t, exec i s = .next t ∧ t.trace = s.trace ++ frameEvents bytes ∧
      t.trace.length = s.trace.length + (58 + 24 * bytes.length) ∧
      LinesHigh t ∧ AnsweredOk s t ∧ SameEngine s t ∧ SameSequencer s t ∧ s.marks <+: t.marks ∧
      (ReceiverIdle s → t.rx.phase = .idle ∧
        (if 1 ≤ bytes.length ∧ bytes.length ≤ s.cfg.addrCount then
          t.rx.mode = some .auto ∧ t.rx.disp = s.rx.disp ∧ MarksAdd s t [] ∧
          ∀ k, Memory.read t.rx.ram k = if k < bytes.length then bytes[k]? else Memory.read s.rx.ram k
         else ControllerUnknown t ∧ MarksAdd s t [.controllerUndefined])) ∧
      (s.rx.phase = .lost → s.clk = some true → s.rx.mode = none →
        t.rx.phase = .idle ∧ ControllerUnknown t ∧ MarksAdd s t [.controllerUndefined])

/-- R59, R153: a second `CLEAR` emits the same events and leaves the controller and receiver as the first did. -/
def Obligations.ClearIsIdempotent : Prop :=
  ∀ s t u : State, NoIoFaults s → Ready s → ReceiverIdle s → 1 ≤ s.cfg.frameN → s.cfg.frameN ≤ s.cfg.addrCount →
    exec .clear s = .next t → exec .clear t = .next u →
    u.rx = t.rx ∧ ∃ es, t.trace = s.trace ++ es ∧ u.trace = t.trace ++ es

/-- R170 to R173: `SET_BRIGHTNESS` stores the clamped level, `SET_ACTIVE` the power state; both re-issue the display-control
command from the stored state, and every display offset reads as before. -/
def Obligations.DisplayControlResult : Prop :=
  ∀ (i : Instr) (intensity : BitVec 3) (active : Bool) (s : State), NoIoFaults s → Ready s →
    ((∃ level : Half, i = .setBrightness level ∧ (intensity.toNat : Int) = min (max level.toInt 0) 7 ∧ active = s.active) ∨
      i = .setActive active ∧ intensity = s.intensity) →
    ∃ t, exec i s = .next t ∧ t.trace = s.trace ++ transaction [displayByte intensity active] ∧
      t.intensity = intensity ∧ t.active = active ∧ t.initDone = s.initDone ∧ t.corrupted = s.corrupted ∧
      LinesHigh t ∧ AnsweredOk s t ∧ SameSequencer s t ∧ s.marks <+: t.marks ∧
      (ReceiverIdle s → t.rx.phase = .idle ∧ t.rx.disp = some (intensity, active) ∧ t.rx.mode = s.rx.mode ∧
        SameRam s t ∧ MarksAdd s t []) ∧
      (s.rx.phase = .lost → s.clk = some true → t.rx = { s.rx with phase := .idle } ∧ MarksAdd s t [])

/-- R183: `MERGE_ROW` answers the merged row in every state, and refuses an offset above 8; nothing else changes. An offset
above 8 is refused at decode; that `exec` refuses it too is the model's choice (log entry 12). -/
def Obligations.MergeRowResult : Prop :=
  ∀ (c1 c2 offset : Byte) (s : State),
    (offset.toNat ≤ 8 → ∃ m, mergedRow c1 c2 offset.toNat m ∧
      exec (.mergeRow c1 c2 offset) s = .next { s with response := some ⟨.ok, [m]⟩ }) ∧
    (8 < offset.toNat → exec (.mergeRow c1 c2 offset) s = .next { s with
      response := some ⟨.invalidRequest, []⟩, marks := s.marks ++ [⟨.invalidRequest, s.reqIndex⟩] })

/-- R184, R216: `PACK_FRAME` answers eight merged rows in every state where both glyphs are there, `E_MISSING_GLYPH` where one
is not, and refuses an offset above 8 (as for `MERGE_ROW`, log entry 12); nothing else changes. -/
def Obligations.PackFrameResult : Prop :=
  ∀ (c1 c2 offset : Byte) (s : State),
    (∀ g1 g2, offset.toNat ≤ 8 → lookupGlyph s.cfg c1 = some g1 → lookupGlyph s.cfg c2 = some g2 →
      ∃ rows : List Byte, exec (.packFrame c1 c2 offset) s = .next { s with response := some ⟨.ok, rows⟩ } ∧
        rows.length = 8 ∧
        ∀ r < 8, mergedRow ((glyphRows g1).getD r 0) ((glyphRows g2).getD r 0) offset.toNat (rows.getD r 0)) ∧
    (offset.toNat ≤ 8 → lookupGlyph s.cfg c1 = none ∨ lookupGlyph s.cfg c2 = none →
      exec (.packFrame c1 c2 offset) s = .next { s with
        response := some ⟨.missingGlyph, []⟩, marks := s.marks ++ [⟨.missingGlyph, s.reqIndex⟩] }) ∧
    (8 < offset.toNat → exec (.packFrame c1 c2 offset) s = .next { s with
      response := some ⟨.invalidRequest, []⟩, marks := s.marks ++ [⟨.invalidRequest, s.reqIndex⟩] })

/-- R185: `SCROLL_START` loads the sequencer, answers `OK` and changes nothing else. -/
def Obligations.ScrollStartResult : Prop :=
  ∀ (msg : List Byte) (delay : Half) (s : State), Ready s →
    exec (.scrollStart msg delay) s = .next { s with
      rMsg := msg, rDelay := delay, rPair := 0, rOff := 0, rSent := 0, rErr := none
      rStatus := if 2 ≤ msg.length then .running else .done
      response := some ⟨.ok, []⟩ }

/-- R186: a running sequencer sends the next frame, after a delay unless it is the first, and moves on by one position. -/
def Obligations.ScrollStepSendsNextFrame : Prop :=
  ∀ (c1 c2 : Byte) (g1 g2 : Glyph) (s : State), NoIoFaults s → Ready s → s.rStatus = .running →
    s.rMsg[s.rPair]? = some c1 → s.rMsg[s.rPair + 1]? = some c2 →
    lookupGlyph s.cfg c1 = some g1 → lookupGlyph s.cfg c2 = some g2 →
    ∃ t, exec .scrollStep s = .next t ∧
      t.trace = s.trace ++ ((if 0 < s.rSent then [.sleep s.rDelay] else []) ++ frameEvents (pack g1 g2 s.rOff.val)) ∧
      LinesHigh t ∧ AnsweredOk s t ∧ SameEngine s t ∧ s.marks <+: t.marks ∧
      t.rMsg = s.rMsg ∧ t.rDelay = s.rDelay ∧ t.rErr = s.rErr ∧ t.rSent = s.rSent + 1 ∧
      8 * t.rPair + t.rOff.val = 8 * s.rPair + s.rOff.val + 1 ∧
      t.rStatus = (if t.rPair + 1 = s.rMsg.length then .done else .running) ∧
      (ReceiverIdle s → t.rx.phase = .idle ∧
        (if 8 ≤ s.cfg.addrCount then
          t.rx.mode = some .auto ∧ t.rx.disp = s.rx.disp ∧ MarksAdd s t [] ∧
          ∀ k, Memory.read t.rx.ram k = if k < 8 then (pack g1 g2 s.rOff.val)[k]? else Memory.read s.rx.ram k
         else ControllerUnknown t ∧ MarksAdd s t [.controllerUndefined])) ∧
      (s.rx.phase = .lost → s.clk = some true → s.rx.mode = none →
        t.rx.phase = .idle ∧ ControllerUnknown t ∧ MarksAdd s t [.controllerUndefined])

/-- R186: the other cases of `SCROLL_STEP`: `DONE` when idle or done, the recorded error when faulted, and
`E_MISSING_GLYPH` before any event. -/
def Obligations.ScrollStepSendsNothing : Prop :=
  ∀ s : State, Ready s →
    (s.rStatus = .idle ∨ s.rStatus = .done → exec .scrollStep s = .next { s with response := some ⟨.done, []⟩ }) ∧
    (∀ e, s.rStatus = .faulted → s.rErr = some e → exec .scrollStep s = .next { s with response := some ⟨e, []⟩ }) ∧
    (∀ c1 c2, s.rStatus = .running → s.rMsg[s.rPair]? = some c1 → s.rMsg[s.rPair + 1]? = some c2 →
      lookupGlyph s.cfg c1 = none ∨ lookupGlyph s.cfg c2 = none →
      exec .scrollStep s = .next { s with
        rStatus := .faulted, rErr := some .missingGlyph, response := some ⟨.missingGlyph, []⟩
        marks := s.marks ++ [⟨.missingGlyph, s.reqIndex⟩] })

/-- R187, R188: a `SCROLL` whose glyphs are all there sends every frame in order and ends `Done` with `OK`. The receiver's part
is for an idle receiver that has the 8 offsets, and says nothing of `CTRL_MODE`. -/
def Obligations.ScrollSendsEveryFrame : Prop :=
  ∀ (msg : List Byte) (delay : Half) (s : State), NoIoFaults s → Ready s →
    (2 ≤ msg.length → ∀ c ∈ msg, lookupGlyph s.cfg c ≠ none) →
    ∃ t, exec (.scroll msg delay) s = .next t ∧
      t.trace = s.trace ++ scrollEvents s.cfg msg delay (8 * (msg.length - 1)) ∧
      t.rStatus = .done ∧ t.rMsg = msg ∧ t.rDelay = delay ∧ t.rPair = msg.length - 1 ∧ t.rOff = 0 ∧
      t.rSent = 8 * (msg.length - 1) ∧ t.rErr = none ∧
      AnsweredOk s t ∧ SameEngine s t ∧ s.marks <+: t.marks ∧ (LinesHigh s → LinesHigh t) ∧
      (ReceiverIdle s → 8 ≤ s.cfg.addrCount → t.rx.phase = .idle ∧ t.rx.disp = s.rx.disp ∧ MarksAdd s t [] ∧
        ∀ k, Memory.read t.rx.ram k =
          if k < 8 ∧ 2 ≤ msg.length then (scrollFrameAt s.cfg msg (8 * (msg.length - 1) - 1))[k]?
          else Memory.read s.rx.ram k)

/-- R187, R216: a `SCROLL` that meets a missing glyph first at pair `p` has sent the frames of the pairs before it, and ends
`Faulted` with `E_MISSING_GLYPH`. -/
def Obligations.ScrollStopsAtMissingGlyph : Prop :=
  ∀ (msg : List Byte) (delay : Half) (p : Nat) (s : State), NoIoFaults s → Ready s → p + 1 < msg.length →
    (∀ k < p, lookupGlyph s.cfg (msg.getD k 0) ≠ none) → (0 < p → lookupGlyph s.cfg (msg.getD p 0) ≠ none) →
    (lookupGlyph s.cfg (msg.getD p 0) = none ∨ lookupGlyph s.cfg (msg.getD (p + 1) 0) = none) →
    ∃ t, exec (.scroll msg delay) s = .next t ∧
      t.trace = s.trace ++ scrollEvents s.cfg msg delay (8 * p) ∧
      t.response = some ⟨.missingGlyph, []⟩ ∧ t.rStatus = .faulted ∧ t.rErr = some .missingGlyph ∧
      t.rMsg = msg ∧ t.rDelay = delay ∧ t.rPair = p ∧ t.rOff = 0 ∧ t.rSent = 8 * p ∧
      SamePort s t ∧ SameDraws s t ∧ SameEngine s t ∧ s.marks <+: t.marks ∧
      t.marks.getLast? = some ⟨.missingGlyph, s.reqIndex⟩

/-- The counts of a complete scroll, as R189 derives them from R186 and R150: frames, delays and pin writes. Where the delays
stand is `ScrollSendsEveryFrame`. -/
def Obligations.ScrollCounts : Prop :=
  ∀ (msg : List Byte) (delay : Half) (s t : State), NoIoFaults s → Ready s →
    (2 ≤ msg.length → ∀ c ∈ msg, lookupGlyph s.cfg c ≠ none) → exec (.scroll msg delay) s = .next t →
    ∃ es, t.trace = s.trace ++ es ∧ t.rSent = 8 * (msg.length - 1) ∧
      sleeps es = 8 * (msg.length - 1) - 1 ∧ pinWrites es = 250 * (8 * (msg.length - 1))

/-- R187: a `SCROLL` is `SCROLL_START` and then `8·(L-1)` `SCROLL_STEP`s, state for state, where no glyph is missing. -/
def Obligations.ScrollIsStartThenSteps : Prop :=
  ∀ (msg : List Byte) (delay : Half) (s : State), NoIoFaults s → Ready s →
    (2 ≤ msg.length → ∀ c ∈ msg, lookupGlyph s.cfg c ≠ none) →
    exec (.scroll msg delay) s = afterSteps (8 * (msg.length - 1)) (exec (.scrollStart msg delay) s)

/-- R187: a `SCROLL` ends in every state, whatever its message and whether pin writes fail: it answers a next state. -/
def Obligations.ScrollAlwaysAnswers : Prop :=
  ∀ (msg : List Byte) (delay : Half) (s : State), ∃ t, exec (.scroll msg delay) s = .next t ∧ SamePort s t

/-- R108, R218: the reserved opcodes are answered with `E_INVALID_REQUEST` and change nothing but the marks. That they are
instructions, refused when run, is the model's choice (log entry 13). -/
def Obligations.ReservedOpcodesAreRefused : Prop :=
  ∀ (i : Instr) (rest : BitVec 28) (s : State), i = .reservedE rest ∨ i = .reservedF rest →
    exec i s = .next { s with
      response := some ⟨.invalidRequest, []⟩, marks := s.marks ++ [⟨.invalidRequest, s.reqIndex⟩] }

/-! ## The wire bytes -/

/-- R93 to R95, R68, R69: the wire commands, each its own transaction, and what an idle receiver makes of them. That the port
can ask for a wire byte alone is the model's choice (log entry 2). -/
def Obligations.WireCommandResult : Prop :=
  ∀ (i : Instr) (b : Byte) (s : State), NoIoFaults s →
    (i = .dataAuto ∧ b = 0x40 ∨ i = .dataFixed ∧ b = 0x44 ∨ ∃ a l, i = .dispCtrl a l ∧ b = displayByte l a) →
    ∃ t, exec i s = .next t ∧ t.trace = s.trace ++ transaction [b] ∧ LinesHigh t ∧
      t.response = s.response ∧ SamePort s t ∧ SameDraws s t ∧ SameEngine s t ∧ SameSequencer s t ∧ s.marks <+: t.marks ∧
      (ReceiverIdle s → t.rx.phase = .idle ∧ SameRam s t ∧ MarksAdd s t [] ∧
        t.rx.mode = (if i = .dataAuto then some .auto else if i = .dataFixed then some .fixed else s.rx.mode) ∧
        t.rx.disp = (match i with
          | .dispCtrl a l => some (l, a)
          | _ => s.rx.disp)) ∧
      (s.rx.phase = .lost → s.clk = some true → t.rx = { s.rx with phase := .idle } ∧ MarksAdd s t [])

/-- R96, R97, R65: an address byte opens a transaction at an idle receiver, a data byte is added to an open one; the
controller does not change before the terminator (R77). That the port can ask for a wire byte alone is the model's choice (log
entry 2). -/
def Obligations.WireByteResult : Prop :=
  ∀ (i : Instr) (b : Byte) (s : State), NoIoFaults s →
    ((∃ o : BitVec 4, i = .addr o ∧ b.toNat = 0xC0 + o.toNat) ∨ i = .data b) →
    ∃ t, exec i s = .next t ∧
      t.trace = s.trace ++ ((match i with
        | .addr _ => [.setDat false]
        | _ => []) ++ byteEvents b) ∧
      t.clk = some true ∧ t.dio = some (b.getLsbD 7) ∧
      t.response = s.response ∧ SamePort s t ∧ SameDraws s t ∧ SameEngine s t ∧ SameSequencer s t ∧ s.marks <+: t.marks ∧
      ((∃ o, i = .addr o) → ReceiverIdle s →
        t.rx = { s.rx with phase := .txB, nbits := 0, acc := 0, bytes := [b] } ∧ MarksAdd s t []) ∧
      (i = .data b → s.rx.phase = .txB → s.rx.nbits = 0 → s.rx.acc = 0 →
        t.rx = { s.rx with bytes := s.rx.bytes ++ [b] } ∧ MarksAdd s t []) ∧
      (s.rx.phase = .lost → t.rx = s.rx ∧ MarksAdd s t [])

/-- R150 at the wire level: the frame write is the wire program `DATA_AUTO`, `ADDR 0`, one `DATA` for each byte, terminator:
run item by item it gives the state that `SEND_FRAME` gives, but for the answer to the host. The wire items are the model's
choice (log entry 2). -/
def Obligations.FrameWriteIsItsWireProgram : Prop :=
  ∀ (bytes : List Byte) (rest : List PortItem) (s u : State), NoIoFaults s → Ready s →
    s.input = .wire (.first 0x40) :: .wire (.first 0xC0) ::
      ((bytes.map fun b => .wire (.later b)) ++ .wire .stop :: rest) →
    exec (.sendFrame bytes) { s with input := rest } = .next u →
    Sys2Proof.core.run (bytes.length + 3) s = .next { u with response := s.response }

/-! ## Errors -/

/-- R217: before the first `INIT` completes, every request with a precheck is refused with `E_NOT_INITIALIZED`, also while
corrupted (R221): it records the mark and emits nothing. -/
def Obligations.NotInitializedIsRefused : Prop :=
  ∀ (i : Instr) (s : State), usesPrecheck i = true → s.initDone = false →
    exec i s = .next { s with
      response := some ⟨.notInitialized, []⟩, marks := s.marks ++ [⟨.notInitialized, s.reqIndex⟩] }

/-- R215: while corrupted, every request with a precheck is refused with `E_DRIVER_CORRUPTED`. -/
def Obligations.CorruptedDriverRefuses : Prop :=
  ∀ (i : Instr) (s : State), usesPrecheck i = true → s.initDone = true → s.corrupted = true →
    exec i s = .next { s with
      response := some ⟨.driverCorrupted, []⟩, marks := s.marks ++ [⟨.driverCorrupted, s.reqIndex⟩] }

/-- R54, R210, R214, R222: where a pin write of a request fails, what came before it stands, `IoFail` takes its place, nothing
follows, the line is unknown, the receiver is lost, the engine corrupted, and the state written before the first event stays; a
`SCROLL_STEP` or `SCROLL` ends `Faulted` at the position it had reached, a frame being 250 pin writes (R189). Requests only: a
failed pin write in a wire item is the model's own case (log entry 17). The draws as a list in the state are the model's choice
(log entry 4). -/
def Obligations.FailedPinWriteAborts : Prop :=
  ∀ (i : Instr) (s : State) (pre post : List Event) (e : Event) (line : Line) (rest : List Bool),
    (∃ a l, i = .init a l) ∨ (usesPrecheck i = true ∧ Ready s) →
    requestEvents s i = pre ++ e :: post → drivenLine e = some line → s.cfg.ioFaults = true →
    s.pinDraws = List.replicate (pinWrites pre) false ++ true :: rest →
    ∃ t, exec i s = .next t ∧ t.trace = s.trace ++ (pre ++ [.ioFail line]) ∧
      (line = .clk → t.clk = none) ∧ (line = .dio → t.dio = none) ∧ t.rx.phase = .lost ∧
      t.corrupted = true ∧ t.initDone = s.initDone ∧ t.response = some ⟨.hardwareIo, []⟩ ∧
      s.marks <+: t.marks ∧ t.marks.getLast? = some ⟨.hardwareIo, s.reqIndex⟩ ∧
      SamePort s t ∧ t.pinDraws = rest ∧ t.drawIndex = s.drawIndex + pinWrites pre + 1 ∧
      (∀ a l, i = .init a l → t.active = a ∧ (t.intensity.toNat : Int) = min (max l.toInt 0) 7 ∧ SequencerCleared t) ∧
      (∀ l, i = .setBrightness l → (t.intensity.toNat : Int) = min (max l.toInt 0) 7 ∧ t.active = s.active) ∧
      (∀ on, i = .setActive on → t.intensity = s.intensity ∧ t.active = on) ∧
      (i = .scrollStep → t.rStatus = .faulted ∧ t.rErr = some .hardwareIo ∧ t.rMsg = s.rMsg ∧ t.rDelay = s.rDelay ∧
        t.rPair = s.rPair ∧ t.rOff = s.rOff ∧ t.rSent = s.rSent) ∧
      (∀ msg delay, i = .scroll msg delay → t.rStatus = .faulted ∧ t.rErr = some .hardwareIo ∧ t.rMsg = msg ∧
        t.rDelay = delay ∧ t.rSent = pinWrites pre / 250 ∧ 8 * t.rPair + t.rOff.val = t.rSent)

/-- R54: with `IO_FAULTS = true` and draws that let every pin write through, an instruction does what it does without I/O
faults, and has taken one draw for each pin write. The draws as a list in the state are the model's choice (log entry 4). -/
def Obligations.PassingDrawsChangeNothing : Prop :=
  ∀ (i : Instr) (s t : State) (n : Nat) (rest : List Bool), s.cfg.ioFaults = true →
    exec i { s with cfg := { s.cfg with ioFaults := false } } = .next t →
    n = pinWrites (t.trace.drop s.trace.length) → s.pinDraws = List.replicate n false ++ rest →
    exec i s = .next { t with cfg := s.cfg, pinDraws := rest, drawIndex := s.drawIndex + n }

/-! ## The reference receiver -/

/-- R63: a lost receiver resynchronises at a data rise with the clock high, and at nothing else. -/
def Obligations.LostReceiverResynchronises : Prop :=
  ∀ (n : Nat) (clk dio : Option Bool) (e : Event) (r : Receiver), r.phase = .lost →
    (e = .setDat true ∧ clk = some true → rxEvent n clk dio e r = ({ r with phase := .idle }, false)) ∧
    (¬ (e = .setDat true ∧ clk = some true) → rxEvent n clk dio e r = (r, false))

/-- R64: an idle receiver, event by event. -/
def Obligations.IdleReceiverAwaitsStart : Prop :=
  ∀ (n : Nat) (clk dio : Option Bool) (r : Receiver), r.phase = .idle →
    (∀ b, rxEvent n clk dio (.setClk b) r = (r, false)) ∧ rxEvent n clk dio (.setDat true) r = (r, false) ∧
    (clk = some true → rxEvent n clk dio (.setDat false) r =
      ({ r with phase := .txB, nbits := 0, acc := 0, bytes := [] }, false)) ∧
    (clk ≠ some true → rxEvent n clk dio (.setDat false) r =
      ({ r with phase := .lost, ram := [], mode := none, disp := none }, true)) ∧
    (∀ ms, rxEvent n clk dio (.sleep ms) r = (r, false)) ∧
    (∀ l, rxEvent n clk dio (.ioFail l) r = ({ r with phase := .lost, ram := [], mode := none, disp := none }, true))

/-- R57, R64 to R66, R140: from idle, the events of a transaction are received as exactly its bytes, in order, least
significant bit first, and take effect as one `apply`, whose mark is the only one. -/
def Obligations.TransactionIsReceivedWhole : Prop :=
  ∀ (bytes : List Byte) (s : State), ReceiverIdle s →
    let applied := rxApply s.cfg.addrCount bytes { s.rx with phase := .idle, nbits := 0, acc := 0, bytes := bytes }
    (emitAll (transaction bytes) s).rx = applied.1 ∧
    MarksAdd s (emitAll (transaction bytes) s) (if applied.2 then [.controllerUndefined] else []) ∧
    LinesHigh (emitAll (transaction bytes) s)

/-- R140: `tx_byte` is eight bit slots, least significant bit first: bit `k` is on the data line immediately before the `k`-th
rising edge; it leaves the clock high and the data line at bit 7, whatever the levels were. -/
def Obligations.ByteIsSentLeastSignificantBitFirst : Prop :=
  ∀ (b : Byte) (s : State), txByte b = byteEvents b ∧ (txByte b).length = 24 ∧
    (∀ k < 8, (txByte b)[3 * k]? = some (.setClk false) ∧ (txByte b)[3 * k + 1]? = some (.setDat (b.getLsbD k)) ∧
      (txByte b)[3 * k + 2]? = some (.setClk true) ∧
      (emitAll ((txByte b).take (3 * k + 2)) s).dio = some (b.getLsbD k)) ∧
    (emitAll (txByte b) s).clk = some true ∧ (emitAll (txByte b) s).dio = some (b.getLsbD 7)

/-- R75, R67: outside `LOST`, a failed pin write loses the receiver and everything known of the controller, with a mark; in
`LOST` it changes nothing. -/
def Obligations.FailedWriteLosesReceiver : Prop :=
  ∀ (n : Nat) (clk dio : Option Bool) (l : Line) (r : Receiver),
    rxEvent n clk dio (.ioFail l) r =
      if r.phase = .lost then (r, false) else ({ r with phase := .lost, ram := [], mode := none, disp := none }, true)

/-- R68, R69, R72: a one-byte transaction, for every byte. -/
def Obligations.OneByteTransactionEffect : Prop :=
  ∀ (n : Nat) (c : Byte) (r : Receiver),
    rxApply n [c] r =
      if c = 0x40 then ({ r with mode := some .auto }, false)
      else if c = 0x44 then ({ r with mode := some .fixed }, false)
      else if c.toNat / 16 = 8 then ({ r with disp := some (BitVec.ofNat 3 (c.toNat % 8), c.getLsbD 3) }, false)
      else ({ r with ram := [], mode := none, disp := none }, true)

/-- R70 to R72: an address command with data, in either mode and in none: which offsets are written, and when the controller
becomes unknown. -/
def Obligations.AddressedWriteEffect : Prop :=
  ∀ (n : Nat) (c d : Byte) (ds : List Byte) (r : Receiver),
    let a := c.toNat % 16
    let fits := c.toNat / 16 = 12 ∧
      (r.mode = some .fixed ∧ ds = [] ∧ a < n ∨ r.mode = some .auto ∧ a + (ds.length + 1) ≤ n)
    (fits → (rxApply n (c :: d :: ds) r).2 = false ∧
      (rxApply n (c :: d :: ds) r).1.mode = r.mode ∧ (rxApply n (c :: d :: ds) r).1.disp = r.disp ∧
      ∀ k, Memory.read (rxApply n (c :: d :: ds) r).1.ram k =
        if a ≤ k ∧ k < a + (ds.length + 1) then (d :: ds)[k - a]? else Memory.read r.ram k) ∧
    (¬ fits → rxApply n (c :: d :: ds) r = ({ r with ram := [], mode := none, disp := none }, true))

/-- R73: an event changes the known display-control register only as a display command's end, and makes a RAM byte known only
as an addressed write's end. -/
def Obligations.OnlyCommandsMakeControllerKnown : Prop :=
  ∀ (n : Nat) (clk dio : Option Bool) (e : Event) (r : Receiver),
    ((rxEvent n clk dio e r).1.disp = r.disp ∨ (rxEvent n clk dio e r).1.disp = none ∨
      r.phase = .txT3 ∧ e = .setDat true ∧ ∃ c, r.bytes = [c] ∧ c.toNat / 16 = 8) ∧
    (∀ k, Memory.read (rxEvent n clk dio e r).1.ram k = Memory.read r.ram k ∨
      Memory.read (rxEvent n clk dio e r).1.ram k = none ∨
      r.phase = .txT3 ∧ e = .setDat true ∧ ∃ c d ds, r.bytes = c :: d :: ds ∧ c.toNat / 16 = 12)

/-- R74: what the panel shows of an offset. -/
def Obligations.PanelShowsController : Prop :=
  ∀ (r : Receiver) (k : Nat),
    (∀ i, r.disp = some (i, true) → panelShows r k = .lit (Memory.read r.ram k) i) ∧
    (∀ i, r.disp = some (i, false) → panelShows r k = .dark) ∧ (r.disp = none → panelShows r k = .unknown)

/-! ## The pure functions -/

/-- R180, R191: the column interleaver bit by bit, with its two endpoints. -/
def Obligations.MergeInterleavesColumns : Prop :=
  ∀ (c1 c2 : Byte) (offset : Nat), offset ≤ 8 →
    mergedRow c1 c2 offset (merge c1 c2 offset) ∧ merge c1 c2 0 = c1 ∧ merge c1 c2 8 = c2

/-- R181: the adapted glyph lookup for every setting of its parameters, and their values for this hardware. -/
def Obligations.LookupAdaptsGlyph : Prop :=
  (State.reset.cfg.fontRowsReversed = false ∧ State.reset.cfg.fontBitsReversed = false ∧
    State.reset.cfg.missingGlyph = .fault) ∧
  ∀ (cfg : Config) (c : Byte),
    (∀ g, cfg.font.lookup c = some g → ∃ h, lookupGlyph cfg c = some h ∧
      ∀ r < 8, ∀ j < 8, ((glyphRows h).getD r 0).getLsbD j =
        ((glyphRows g).getD (if cfg.fontRowsReversed then 7 - r else r) 0).getLsbD
          (if cfg.fontBitsReversed then 7 - j else j)) ∧
    (cfg.font.lookup c = none →
      lookupGlyph cfg c = if cfg.missingGlyph = .blank then some ⟨0, 0, 0, 0, 0, 0, 0, 0⟩ else none)

/-- R105, R37, R95, R107: a level is read as a signed 16-bit integer and clamped to `0..7`, and the display-control byte is
`1000_AIII`. -/
def Obligations.LevelClampAndControlByte : Prop :=
  (∀ level : Half, ((clampLevel (sint16 level)).toNat : Int) = min (max level.toInt 0) 7) ∧
  ∀ (intensity : BitVec 3) (active : Bool),
    (displayControlByte intensity active).toNat = 0x80 + (if active then 8 else 0) + intensity.toNat
end

