-- ==== Sys2Proof/Laws/Decode.lean ====
section
/-! SUPPORT. The fields of an encoded request word, and the mask and match of its opcode. -/

namespace Sys2Proof

/-- The bits of a request word, from the top field down. -/
theorem getLsbD_requestWord (op : BitVec 4) (a : Byte) (b : Half) (i : Nat) :
    (requestWord op a b).getLsbD i =
      if i < 16 then b.getLsbD i else if i < 24 then a.getLsbD (i - 16)
      else if i < 28 then false else op.getLsbD (i - 28) := by
  simp only [requestWord, BitVec.getLsbD_append]
  split_ifs <;> first | rfl | omega | simp

@[simp] theorem opField_requestWord (op : BitVec 4) (a : Byte) (b : Half) : opField (requestWord op a b) = op := by
  apply BitVec.eq_of_getLsbD_eq
  intro i hi
  have h1 : ¬ 28 + i < 16 := by omega
  have h2 : ¬ 28 + i < 24 := by omega
  have h3 : ¬ 28 + i < 28 := by omega
  simp [opField, getLsbD_requestWord, hi, h1, h2, h3]

@[simp] theorem aField_requestWord (op : BitVec 4) (a : Byte) (b : Half) : aField (requestWord op a b) = a := by
  apply BitVec.eq_of_getLsbD_eq
  intro i hi
  have h1 : ¬ 16 + i < 16 := by omega
  have h2 : 16 + i < 24 := by omega
  simp [aField, getLsbD_requestWord, hi, h1, h2]

@[simp] theorem bField_requestWord (op : BitVec 4) (a : Byte) (b : Half) : bField (requestWord op a b) = b := by
  apply BitVec.eq_of_getLsbD_eq
  intro i hi
  simp [bField, getLsbD_requestWord, hi]

theorem bLow_requestWord (op : BitVec 4) (a : Byte) (b : Half) : bLow (requestWord op a b) = b.extractLsb' 0 8 := by
  apply BitVec.eq_of_getLsbD_eq
  intro i hi
  have h1 : i < 16 := by omega
  simp [bLow, getLsbD_requestWord, hi, h1]

theorem bHigh_requestWord (op : BitVec 4) (a : Byte) (b : Half) : bHigh (requestWord op a b) = b.extractLsb' 8 8 := by
  apply BitVec.eq_of_getLsbD_eq
  intro i hi
  have h1 : 8 + i < 16 := by omega
  simp [bHigh, getLsbD_requestWord, hi, h1]

theorem getLsbD_pairHalf (high low : Byte) (i : Nat) :
    (pairHalf high low).getLsbD i = if i < 8 then low.getLsbD i else high.getLsbD (i - 8) :=
  BitVec.getLsbD_append

@[simp] theorem bLow_requestWord_pair (op : BitVec 4) (a high low : Byte) :
    bLow (requestWord op a (pairHalf high low)) = low := by
  rw [bLow_requestWord]
  apply BitVec.eq_of_getLsbD_eq
  intro i h
  rw [BitVec.getLsbD_extractLsb', getLsbD_pairHalf]
  simp [h]

@[simp] theorem bHigh_requestWord_pair (op : BitVec 4) (a high low : Byte) :
    bHigh (requestWord op a (pairHalf high low)) = high := by
  rw [bHigh_requestWord]
  apply BitVec.eq_of_getLsbD_eq
  intro i h
  rw [BitVec.getLsbD_extractLsb', getLsbD_pairHalf]
  simp [h]

@[simp] theorem bLow_requestWord_low (op : BitVec 4) (a x : Byte) : bLow (requestWord op a (lowHalf x)) = x :=
  bLow_requestWord_pair op a 0 x

/-- The bits of an opcode's match word. -/
theorem getLsbD_requestMatch (op : BitVec 4) (i : Nat) :
    (requestMatch op).getLsbD i = if i < 28 then false else op.getLsbD (i - 28) := by
  rw [requestMatch, BitVec.getLsbD_append]
  simp

@[simp] theorem boolByte_bit (x : Bool) : (boolByte x).getLsbD 0 = x := by cases x <;> rfl

theorem getLsbD_boolByte (x : Bool) (i : Nat) : (boolByte x).getLsbD i = (decide (i = 0) && x) := by
  rw [boolByte, BitVec.getLsbD_append]
  cases i <;> cases x <;> simp

theorem getLsbD_lowHalf (x : Byte) (i : Nat) : (lowHalf x).getLsbD i = (decide (i < 8) && x.getLsbD i) := by
  rw [lowHalf, getLsbD_pairHalf]
  split_ifs with h <;> simp [h]

/-- A word meets its opcode's match under a mask exactly where the masked bits are the match's. -/
theorem masked_eq_iff (w m k : Word) : w &&& m = k ↔ ∀ i < 32, (w.getLsbD i && m.getLsbD i) = k.getLsbD i := by
  constructor
  · rintro rfl i _
    simp
  · intro h
    apply BitVec.eq_of_getLsbD_eq
    intro i hi
    simpa using h i hi

end Sys2Proof
end

