-- ==== Sys2Proof/Laws/Memory.lean ====
section
/-! SUPPORT. The display RAM: a read after a write, the canonical form, and the offsets listed. -/

namespace Sys2Proof.Machine

@[simp] theorem Memory.read_nil (a : Nat) : Memory.read [] a = none := rfl

@[simp] theorem Memory.read_write_same (a : Nat) (v : Byte) (m : Memory) : Memory.read (Memory.write a v m) a = some v := by
  induction m with
  | nil => simp [Memory.write, Memory.read]
  | cons c m ih =>
    unfold Memory.write
    split_ifs with h1 h2
    · simp [Memory.read]
    · simp [Memory.read]
    · have : c.1 ≠ a := by omega
      simp [Memory.read, this, ih]

theorem Memory.read_write_other {a b : Nat} (h : b ≠ a) (v : Byte) (m : Memory) :
    Memory.read (Memory.write a v m) b = Memory.read m b := by
  induction m with
  | nil => simp [Memory.write, Memory.read, Ne.symm h]
  | cons c m ih =>
    unfold Memory.write
    split_ifs with h1 h2
    · simp [Memory.read, Ne.symm h]
    · have : c.1 ≠ b := by omega
      simp [Memory.read, Ne.symm h, this]
    · simp only [Memory.read, ih]

theorem Memory.mem_write {a : Nat} {v : Byte} {m : Memory} {c : Host.Cell} (h : c ∈ Memory.write a v m) :
    c = (a, v) ∨ c ∈ m := by
  induction m with
  | nil => simpa [Memory.write] using h
  | cons d m ih =>
    unfold Memory.write at h
    split_ifs at h with h1 h2
    · simpa using h
    · rcases List.mem_cons.1 h with h | h
      · exact .inl h
      · exact .inr (List.mem_cons_of_mem _ h)
    · rcases List.mem_cons.1 h with h | h
      · exact .inr (h ▸ List.mem_cons_self)
      · exact (ih h).imp id (List.mem_cons_of_mem _)

theorem Memory.wf_cons {c : Host.Cell} {m : Memory} :
    Memory.wf (c :: m) = true ↔ (∀ d ∈ m.head?, c.1 < d.1) ∧ Memory.wf m = true := by
  cases m with
  | nil => simp [Memory.wf]
  | cons d m => simp [Memory.wf]

theorem Memory.head_write {a n : Nat} {v : Byte} {m : Memory} (hn : n < a) (hm : ∀ d ∈ m.head?, n < d.1) :
    ∀ d ∈ (Memory.write a v m).head?, n < d.1 := by
  cases m with
  | nil => simp [Memory.write, hn]
  | cons c m =>
    unfold Memory.write
    split_ifs with h1 h2
    · simpa using hn
    · simpa using hn
    · simpa using hm

/-- A write keeps the canonical form. -/
theorem Memory.wf_write (a : Nat) (v : Byte) {m : Memory} (h : Memory.wf m = true) :
    Memory.wf (Memory.write a v m) = true := by
  induction m with
  | nil => rfl
  | cons c m ih =>
    obtain ⟨hc, hm⟩ := Memory.wf_cons.1 h
    unfold Memory.write
    split_ifs with h1 h2
    · exact Memory.wf_cons.2 ⟨by simpa using h1, h⟩
    · exact Memory.wf_cons.2 ⟨by simpa [h2] using hc, hm⟩
    · exact Memory.wf_cons.2 ⟨Memory.head_write (by omega) hc, ih hm⟩

/-- A run of writes keeps the canonical form. -/
theorem Memory.wf_writeList (a : Nat) (vs : List Byte) {m : Memory} (h : Memory.wf m = true) :
    Memory.wf (Memory.writeList a vs m) = true := by
  induction vs generalizing a m with
  | nil => exact h
  | cons v vs ih => exact ih (a + 1) (Memory.wf_write a v h)

theorem Memory.mem_writeList {a : Nat} {vs : List Byte} {m : Memory} {c : Host.Cell}
    (h : c ∈ Memory.writeList a vs m) : c.1 < a + vs.length ∨ c ∈ m := by
  induction vs generalizing a m with
  | nil => exact .inr h
  | cons v vs ih =>
    rcases ih h with h | h
    · exact .inl (by simp only [List.length_cons]; omega)
    · rcases Memory.mem_write h with h | h
      · exact .inl (by simp [h])
      · exact .inr h

/-- What a run of writes leaves at each offset. -/
theorem Memory.read_writeList (a b : Nat) (vs : List Byte) (m : Memory) :
    Memory.read (Memory.writeList a vs m) b =
      if a ≤ b ∧ b < a + vs.length then vs[b - a]? else Memory.read m b := by
  induction vs generalizing a m with
  | nil =>
    have : ¬ (a ≤ b ∧ b < a + 0) := by omega
    simp [Memory.writeList]
  | cons v vs ih =>
    simp only [Memory.writeList, ih, List.length_cons]
    rcases Nat.lt_trichotomy a b with h | rfl | h
    · have hb : b - a = (b - (a + 1)) + 1 := by omega
      simp only [hb, List.getElem?_cons_succ, Memory.read_write_other (Nat.ne_of_gt h)]
      split_ifs <;> first | rfl | omega
    · have h1 : ¬ (a + 1 ≤ a ∧ a < a + 1 + vs.length) := by omega
      simp
    · have h1 : ¬ (a + 1 ≤ b ∧ b < a + 1 + vs.length) := by omega
      have h2 : ¬ (a ≤ b ∧ b < a + (vs.length + 1)) := by omega
      simp only [h1, h2, if_false, Memory.read_write_other (Nat.ne_of_lt h)]

/-- In canonical form, a listed byte is what its offset reads as. -/
theorem Memory.read_of_mem {m : Memory} (h : Memory.wf m = true) {c : Host.Cell} (hc : c ∈ m) :
    Memory.read m c.1 = some c.2 := by
  induction m with
  | nil => cases hc
  | cons d m ih =>
    obtain ⟨hd, hm⟩ := Memory.wf_cons.1 h
    rcases List.mem_cons.1 hc with rfl | hc
    · simp [Memory.read]
    · have : d.1 ≠ c.1 := by
        have key : ∀ (m : Memory) (n : Nat), Memory.wf m = true → (∀ e ∈ m.head?, n < e.1) → ∀ e ∈ m, n < e.1 := by
          intro m
          induction m with
          | nil => simp
          | cons e m ih =>
            intro n hw hn x hx
            obtain ⟨he, hm⟩ := Memory.wf_cons.1 hw
            have hne : n < e.1 := hn e (by simp)
            rcases List.mem_cons.1 hx with rfl | hx
            · exact hne
            · exact Nat.lt_trans hne (ih e.1 hm he x hx)
        exact Nat.ne_of_lt (key m d.1 hm hd c hc)
      simp [Memory.read, this, ih hm hc]

/-- The display RAM at power-up lists nothing, in canonical form (R62). -/
theorem reset_ram_wf : Memory.wf State.reset.rx.ram = true := rfl

end Sys2Proof.Machine
end

