-- ==== Sys2Proof/Laws/State.lean ====
section
/-! SUPPORT. What each named update does to each field of the state, one lemma per field, so that no later proof unfolds a
record update. -/

namespace Sys2Proof.Machine

/-! ### `addMark` -/

@[simp] theorem addMark_cfg (k : MarkKind) (s : State) : (addMark k s).cfg = s.cfg := rfl
@[simp] theorem addMark_input (k : MarkKind) (s : State) : (addMark k s).input = s.input := rfl
@[simp] theorem addMark_response (k : MarkKind) (s : State) : (addMark k s).response = s.response := rfl
@[simp] theorem addMark_reqIndex (k : MarkKind) (s : State) : (addMark k s).reqIndex = s.reqIndex := rfl
@[simp] theorem addMark_clk (k : MarkKind) (s : State) : (addMark k s).clk = s.clk := rfl
@[simp] theorem addMark_dio (k : MarkKind) (s : State) : (addMark k s).dio = s.dio := rfl
@[simp] theorem addMark_intensity (k : MarkKind) (s : State) : (addMark k s).intensity = s.intensity := rfl
@[simp] theorem addMark_active (k : MarkKind) (s : State) : (addMark k s).active = s.active := rfl
@[simp] theorem addMark_initDone (k : MarkKind) (s : State) : (addMark k s).initDone = s.initDone := rfl
@[simp] theorem addMark_corrupted (k : MarkKind) (s : State) : (addMark k s).corrupted = s.corrupted := rfl
@[simp] theorem addMark_marks (k : MarkKind) (s : State) : (addMark k s).marks = s.marks ++ [⟨k, s.reqIndex⟩] := rfl
@[simp] theorem addMark_rStatus (k : MarkKind) (s : State) : (addMark k s).rStatus = s.rStatus := rfl
@[simp] theorem addMark_rMsg (k : MarkKind) (s : State) : (addMark k s).rMsg = s.rMsg := rfl
@[simp] theorem addMark_rDelay (k : MarkKind) (s : State) : (addMark k s).rDelay = s.rDelay := rfl
@[simp] theorem addMark_rPair (k : MarkKind) (s : State) : (addMark k s).rPair = s.rPair := rfl
@[simp] theorem addMark_rOff (k : MarkKind) (s : State) : (addMark k s).rOff = s.rOff := rfl
@[simp] theorem addMark_rSent (k : MarkKind) (s : State) : (addMark k s).rSent = s.rSent := rfl
@[simp] theorem addMark_rErr (k : MarkKind) (s : State) : (addMark k s).rErr = s.rErr := rfl
@[simp] theorem addMark_trace (k : MarkKind) (s : State) : (addMark k s).trace = s.trace := rfl
@[simp] theorem addMark_rx (k : MarkKind) (s : State) : (addMark k s).rx = s.rx := rfl
@[simp] theorem addMark_pinDraws (k : MarkKind) (s : State) : (addMark k s).pinDraws = s.pinDraws := rfl
@[simp] theorem addMark_drawIndex (k : MarkKind) (s : State) : (addMark k s).drawIndex = s.drawIndex := rfl

/-! ### `respond` -/

@[simp] theorem respond_cfg (st : Status) (r : List Byte) (s : State) : (respond st r s).cfg = s.cfg := rfl
@[simp] theorem respond_input (st : Status) (r : List Byte) (s : State) : (respond st r s).input = s.input := rfl
@[simp] theorem respond_response (st : Status) (r : List Byte) (s : State) : (respond st r s).response = some ⟨st, r⟩ := rfl
@[simp] theorem respond_reqIndex (st : Status) (r : List Byte) (s : State) : (respond st r s).reqIndex = s.reqIndex := rfl
@[simp] theorem respond_clk (st : Status) (r : List Byte) (s : State) : (respond st r s).clk = s.clk := rfl
@[simp] theorem respond_dio (st : Status) (r : List Byte) (s : State) : (respond st r s).dio = s.dio := rfl
@[simp] theorem respond_intensity (st : Status) (r : List Byte) (s : State) : (respond st r s).intensity = s.intensity := rfl
@[simp] theorem respond_active (st : Status) (r : List Byte) (s : State) : (respond st r s).active = s.active := rfl
@[simp] theorem respond_initDone (st : Status) (r : List Byte) (s : State) : (respond st r s).initDone = s.initDone := rfl
@[simp] theorem respond_corrupted (st : Status) (r : List Byte) (s : State) : (respond st r s).corrupted = s.corrupted := rfl
@[simp] theorem respond_marks (st : Status) (r : List Byte) (s : State) : (respond st r s).marks = s.marks := rfl
@[simp] theorem respond_rStatus (st : Status) (r : List Byte) (s : State) : (respond st r s).rStatus = s.rStatus := rfl
@[simp] theorem respond_rMsg (st : Status) (r : List Byte) (s : State) : (respond st r s).rMsg = s.rMsg := rfl
@[simp] theorem respond_rDelay (st : Status) (r : List Byte) (s : State) : (respond st r s).rDelay = s.rDelay := rfl
@[simp] theorem respond_rPair (st : Status) (r : List Byte) (s : State) : (respond st r s).rPair = s.rPair := rfl
@[simp] theorem respond_rOff (st : Status) (r : List Byte) (s : State) : (respond st r s).rOff = s.rOff := rfl
@[simp] theorem respond_rSent (st : Status) (r : List Byte) (s : State) : (respond st r s).rSent = s.rSent := rfl
@[simp] theorem respond_rErr (st : Status) (r : List Byte) (s : State) : (respond st r s).rErr = s.rErr := rfl
@[simp] theorem respond_trace (st : Status) (r : List Byte) (s : State) : (respond st r s).trace = s.trace := rfl
@[simp] theorem respond_rx (st : Status) (r : List Byte) (s : State) : (respond st r s).rx = s.rx := rfl
@[simp] theorem respond_pinDraws (st : Status) (r : List Byte) (s : State) : (respond st r s).pinDraws = s.pinDraws := rfl
@[simp] theorem respond_drawIndex (st : Status) (r : List Byte) (s : State) : (respond st r s).drawIndex = s.drawIndex := rfl

/-! ### `raiseError` -/

@[simp] theorem raiseError_cfg (e : ErrorKind) (s : State) : (raiseError e s).cfg = s.cfg := rfl
@[simp] theorem raiseError_input (e : ErrorKind) (s : State) : (raiseError e s).input = s.input := rfl
@[simp] theorem raiseError_response (e : ErrorKind) (s : State) : (raiseError e s).response = some ⟨e.status, []⟩ := rfl
@[simp] theorem raiseError_reqIndex (e : ErrorKind) (s : State) : (raiseError e s).reqIndex = s.reqIndex := rfl
@[simp] theorem raiseError_clk (e : ErrorKind) (s : State) : (raiseError e s).clk = s.clk := rfl
@[simp] theorem raiseError_dio (e : ErrorKind) (s : State) : (raiseError e s).dio = s.dio := rfl
@[simp] theorem raiseError_intensity (e : ErrorKind) (s : State) : (raiseError e s).intensity = s.intensity := rfl
@[simp] theorem raiseError_active (e : ErrorKind) (s : State) : (raiseError e s).active = s.active := rfl
@[simp] theorem raiseError_initDone (e : ErrorKind) (s : State) : (raiseError e s).initDone = s.initDone := rfl
@[simp] theorem raiseError_corrupted (e : ErrorKind) (s : State) : (raiseError e s).corrupted = s.corrupted := rfl
@[simp] theorem raiseError_marks (e : ErrorKind) (s : State) : (raiseError e s).marks = s.marks ++ [⟨e.mark, s.reqIndex⟩] := rfl
@[simp] theorem raiseError_rStatus (e : ErrorKind) (s : State) : (raiseError e s).rStatus = s.rStatus := rfl
@[simp] theorem raiseError_rMsg (e : ErrorKind) (s : State) : (raiseError e s).rMsg = s.rMsg := rfl
@[simp] theorem raiseError_rDelay (e : ErrorKind) (s : State) : (raiseError e s).rDelay = s.rDelay := rfl
@[simp] theorem raiseError_rPair (e : ErrorKind) (s : State) : (raiseError e s).rPair = s.rPair := rfl
@[simp] theorem raiseError_rOff (e : ErrorKind) (s : State) : (raiseError e s).rOff = s.rOff := rfl
@[simp] theorem raiseError_rSent (e : ErrorKind) (s : State) : (raiseError e s).rSent = s.rSent := rfl
@[simp] theorem raiseError_rErr (e : ErrorKind) (s : State) : (raiseError e s).rErr = s.rErr := rfl
@[simp] theorem raiseError_trace (e : ErrorKind) (s : State) : (raiseError e s).trace = s.trace := rfl
@[simp] theorem raiseError_rx (e : ErrorKind) (s : State) : (raiseError e s).rx = s.rx := rfl
@[simp] theorem raiseError_pinDraws (e : ErrorKind) (s : State) : (raiseError e s).pinDraws = s.pinDraws := rfl
@[simp] theorem raiseError_drawIndex (e : ErrorKind) (s : State) : (raiseError e s).drawIndex = s.drawIndex := rfl

/-! ### `takeDraw` -/

@[simp] theorem takeDraw_cfg (s : State) : (takeDraw s).cfg = s.cfg := rfl
@[simp] theorem takeDraw_input (s : State) : (takeDraw s).input = s.input := rfl
@[simp] theorem takeDraw_response (s : State) : (takeDraw s).response = s.response := rfl
@[simp] theorem takeDraw_reqIndex (s : State) : (takeDraw s).reqIndex = s.reqIndex := rfl
@[simp] theorem takeDraw_clk (s : State) : (takeDraw s).clk = s.clk := rfl
@[simp] theorem takeDraw_dio (s : State) : (takeDraw s).dio = s.dio := rfl
@[simp] theorem takeDraw_intensity (s : State) : (takeDraw s).intensity = s.intensity := rfl
@[simp] theorem takeDraw_active (s : State) : (takeDraw s).active = s.active := rfl
@[simp] theorem takeDraw_initDone (s : State) : (takeDraw s).initDone = s.initDone := rfl
@[simp] theorem takeDraw_corrupted (s : State) : (takeDraw s).corrupted = s.corrupted := rfl
@[simp] theorem takeDraw_marks (s : State) : (takeDraw s).marks = s.marks := rfl
@[simp] theorem takeDraw_rStatus (s : State) : (takeDraw s).rStatus = s.rStatus := rfl
@[simp] theorem takeDraw_rMsg (s : State) : (takeDraw s).rMsg = s.rMsg := rfl
@[simp] theorem takeDraw_rDelay (s : State) : (takeDraw s).rDelay = s.rDelay := rfl
@[simp] theorem takeDraw_rPair (s : State) : (takeDraw s).rPair = s.rPair := rfl
@[simp] theorem takeDraw_rOff (s : State) : (takeDraw s).rOff = s.rOff := rfl
@[simp] theorem takeDraw_rSent (s : State) : (takeDraw s).rSent = s.rSent := rfl
@[simp] theorem takeDraw_rErr (s : State) : (takeDraw s).rErr = s.rErr := rfl
@[simp] theorem takeDraw_trace (s : State) : (takeDraw s).trace = s.trace := rfl
@[simp] theorem takeDraw_rx (s : State) : (takeDraw s).rx = s.rx := rfl
@[simp] theorem takeDraw_pinDraws (s : State) : (takeDraw s).pinDraws = s.pinDraws.tail := rfl
@[simp] theorem takeDraw_drawIndex (s : State) : (takeDraw s).drawIndex = s.drawIndex + 1 := rfl

/-! ### `emit` -/

@[simp] theorem emit_cfg (e : Event) (s : State) : (emit e s).cfg = s.cfg := rfl
@[simp] theorem emit_input (e : Event) (s : State) : (emit e s).input = s.input := rfl
@[simp] theorem emit_response (e : Event) (s : State) : (emit e s).response = s.response := rfl
@[simp] theorem emit_reqIndex (e : Event) (s : State) : (emit e s).reqIndex = s.reqIndex := rfl
@[simp] theorem emit_clk (e : Event) (s : State) : (emit e s).clk = clkAfter e s.clk := rfl
@[simp] theorem emit_dio (e : Event) (s : State) : (emit e s).dio = dioAfter e s.dio := rfl
@[simp] theorem emit_intensity (e : Event) (s : State) : (emit e s).intensity = s.intensity := rfl
@[simp] theorem emit_active (e : Event) (s : State) : (emit e s).active = s.active := rfl
@[simp] theorem emit_initDone (e : Event) (s : State) : (emit e s).initDone = s.initDone := rfl
@[simp] theorem emit_corrupted (e : Event) (s : State) : (emit e s).corrupted = s.corrupted := rfl
@[simp] theorem emit_marks (e : Event) (s : State) : (emit e s).marks = if (rxEvent s.cfg.addrCount s.clk s.dio e s.rx).2 then s.marks ++ [⟨.controllerUndefined, s.reqIndex⟩] else s.marks := rfl
@[simp] theorem emit_rStatus (e : Event) (s : State) : (emit e s).rStatus = s.rStatus := rfl
@[simp] theorem emit_rMsg (e : Event) (s : State) : (emit e s).rMsg = s.rMsg := rfl
@[simp] theorem emit_rDelay (e : Event) (s : State) : (emit e s).rDelay = s.rDelay := rfl
@[simp] theorem emit_rPair (e : Event) (s : State) : (emit e s).rPair = s.rPair := rfl
@[simp] theorem emit_rOff (e : Event) (s : State) : (emit e s).rOff = s.rOff := rfl
@[simp] theorem emit_rSent (e : Event) (s : State) : (emit e s).rSent = s.rSent := rfl
@[simp] theorem emit_rErr (e : Event) (s : State) : (emit e s).rErr = s.rErr := rfl
@[simp] theorem emit_trace (e : Event) (s : State) : (emit e s).trace = s.trace ++ [e] := rfl
@[simp] theorem emit_rx (e : Event) (s : State) : (emit e s).rx = (rxEvent s.cfg.addrCount s.clk s.dio e s.rx).1 := rfl
@[simp] theorem emit_pinDraws (e : Event) (s : State) : (emit e s).pinDraws = s.pinDraws := rfl
@[simp] theorem emit_drawIndex (e : Event) (s : State) : (emit e s).drawIndex = s.drawIndex := rfl

/-! ### `clearSequencer` -/

@[simp] theorem clearSequencer_cfg (s : State) : (clearSequencer s).cfg = s.cfg := rfl
@[simp] theorem clearSequencer_input (s : State) : (clearSequencer s).input = s.input := rfl
@[simp] theorem clearSequencer_response (s : State) : (clearSequencer s).response = s.response := rfl
@[simp] theorem clearSequencer_reqIndex (s : State) : (clearSequencer s).reqIndex = s.reqIndex := rfl
@[simp] theorem clearSequencer_clk (s : State) : (clearSequencer s).clk = s.clk := rfl
@[simp] theorem clearSequencer_dio (s : State) : (clearSequencer s).dio = s.dio := rfl
@[simp] theorem clearSequencer_intensity (s : State) : (clearSequencer s).intensity = s.intensity := rfl
@[simp] theorem clearSequencer_active (s : State) : (clearSequencer s).active = s.active := rfl
@[simp] theorem clearSequencer_initDone (s : State) : (clearSequencer s).initDone = s.initDone := rfl
@[simp] theorem clearSequencer_corrupted (s : State) : (clearSequencer s).corrupted = s.corrupted := rfl
@[simp] theorem clearSequencer_marks (s : State) : (clearSequencer s).marks = s.marks := rfl
@[simp] theorem clearSequencer_rStatus (s : State) : (clearSequencer s).rStatus = .idle := rfl
@[simp] theorem clearSequencer_rMsg (s : State) : (clearSequencer s).rMsg = [] := rfl
@[simp] theorem clearSequencer_rDelay (s : State) : (clearSequencer s).rDelay = 0 := rfl
@[simp] theorem clearSequencer_rPair (s : State) : (clearSequencer s).rPair = 0 := rfl
@[simp] theorem clearSequencer_rOff (s : State) : (clearSequencer s).rOff = 0 := rfl
@[simp] theorem clearSequencer_rSent (s : State) : (clearSequencer s).rSent = 0 := rfl
@[simp] theorem clearSequencer_rErr (s : State) : (clearSequencer s).rErr = none := rfl
@[simp] theorem clearSequencer_trace (s : State) : (clearSequencer s).trace = s.trace := rfl
@[simp] theorem clearSequencer_rx (s : State) : (clearSequencer s).rx = s.rx := rfl
@[simp] theorem clearSequencer_pinDraws (s : State) : (clearSequencer s).pinDraws = s.pinDraws := rfl
@[simp] theorem clearSequencer_drawIndex (s : State) : (clearSequencer s).drawIndex = s.drawIndex := rfl

/-! ### `loadSequencer` -/

@[simp] theorem loadSequencer_cfg (msg : List Byte) (delay : Half) (s : State) : (loadSequencer msg delay s).cfg = s.cfg := rfl
@[simp] theorem loadSequencer_input (msg : List Byte) (delay : Half) (s : State) : (loadSequencer msg delay s).input = s.input := rfl
@[simp] theorem loadSequencer_response (msg : List Byte) (delay : Half) (s : State) : (loadSequencer msg delay s).response = s.response := rfl
@[simp] theorem loadSequencer_reqIndex (msg : List Byte) (delay : Half) (s : State) : (loadSequencer msg delay s).reqIndex = s.reqIndex := rfl
@[simp] theorem loadSequencer_clk (msg : List Byte) (delay : Half) (s : State) : (loadSequencer msg delay s).clk = s.clk := rfl
@[simp] theorem loadSequencer_dio (msg : List Byte) (delay : Half) (s : State) : (loadSequencer msg delay s).dio = s.dio := rfl
@[simp] theorem loadSequencer_intensity (msg : List Byte) (delay : Half) (s : State) : (loadSequencer msg delay s).intensity = s.intensity := rfl
@[simp] theorem loadSequencer_active (msg : List Byte) (delay : Half) (s : State) : (loadSequencer msg delay s).active = s.active := rfl
@[simp] theorem loadSequencer_initDone (msg : List Byte) (delay : Half) (s : State) : (loadSequencer msg delay s).initDone = s.initDone := rfl
@[simp] theorem loadSequencer_corrupted (msg : List Byte) (delay : Half) (s : State) : (loadSequencer msg delay s).corrupted = s.corrupted := rfl
@[simp] theorem loadSequencer_marks (msg : List Byte) (delay : Half) (s : State) : (loadSequencer msg delay s).marks = s.marks := rfl
@[simp] theorem loadSequencer_rStatus (msg : List Byte) (delay : Half) (s : State) : (loadSequencer msg delay s).rStatus = if 2 ≤ msg.length then .running else .done := rfl
@[simp] theorem loadSequencer_rMsg (msg : List Byte) (delay : Half) (s : State) : (loadSequencer msg delay s).rMsg = msg := rfl
@[simp] theorem loadSequencer_rDelay (msg : List Byte) (delay : Half) (s : State) : (loadSequencer msg delay s).rDelay = delay := rfl
@[simp] theorem loadSequencer_rPair (msg : List Byte) (delay : Half) (s : State) : (loadSequencer msg delay s).rPair = 0 := rfl
@[simp] theorem loadSequencer_rOff (msg : List Byte) (delay : Half) (s : State) : (loadSequencer msg delay s).rOff = 0 := rfl
@[simp] theorem loadSequencer_rSent (msg : List Byte) (delay : Half) (s : State) : (loadSequencer msg delay s).rSent = 0 := rfl
@[simp] theorem loadSequencer_rErr (msg : List Byte) (delay : Half) (s : State) : (loadSequencer msg delay s).rErr = none := rfl
@[simp] theorem loadSequencer_trace (msg : List Byte) (delay : Half) (s : State) : (loadSequencer msg delay s).trace = s.trace := rfl
@[simp] theorem loadSequencer_rx (msg : List Byte) (delay : Half) (s : State) : (loadSequencer msg delay s).rx = s.rx := rfl
@[simp] theorem loadSequencer_pinDraws (msg : List Byte) (delay : Half) (s : State) : (loadSequencer msg delay s).pinDraws = s.pinDraws := rfl
@[simp] theorem loadSequencer_drawIndex (msg : List Byte) (delay : Half) (s : State) : (loadSequencer msg delay s).drawIndex = s.drawIndex := rfl

/-! ### `advanceSequencer` -/

@[simp] theorem advanceSequencer_cfg (s : State) : (advanceSequencer s).cfg = s.cfg := rfl
@[simp] theorem advanceSequencer_input (s : State) : (advanceSequencer s).input = s.input := rfl
@[simp] theorem advanceSequencer_response (s : State) : (advanceSequencer s).response = s.response := rfl
@[simp] theorem advanceSequencer_reqIndex (s : State) : (advanceSequencer s).reqIndex = s.reqIndex := rfl
@[simp] theorem advanceSequencer_clk (s : State) : (advanceSequencer s).clk = s.clk := rfl
@[simp] theorem advanceSequencer_dio (s : State) : (advanceSequencer s).dio = s.dio := rfl
@[simp] theorem advanceSequencer_intensity (s : State) : (advanceSequencer s).intensity = s.intensity := rfl
@[simp] theorem advanceSequencer_active (s : State) : (advanceSequencer s).active = s.active := rfl
@[simp] theorem advanceSequencer_initDone (s : State) : (advanceSequencer s).initDone = s.initDone := rfl
@[simp] theorem advanceSequencer_corrupted (s : State) : (advanceSequencer s).corrupted = s.corrupted := rfl
@[simp] theorem advanceSequencer_marks (s : State) : (advanceSequencer s).marks = s.marks := rfl
@[simp] theorem advanceSequencer_rStatus (s : State) : (advanceSequencer s).rStatus = if (if s.rOff = 7 then s.rPair + 1 else s.rPair) + 1 = s.rMsg.length then .done else s.rStatus := rfl
@[simp] theorem advanceSequencer_rMsg (s : State) : (advanceSequencer s).rMsg = s.rMsg := rfl
@[simp] theorem advanceSequencer_rDelay (s : State) : (advanceSequencer s).rDelay = s.rDelay := rfl
@[simp] theorem advanceSequencer_rPair (s : State) : (advanceSequencer s).rPair = if s.rOff = 7 then s.rPair + 1 else s.rPair := rfl
@[simp] theorem advanceSequencer_rOff (s : State) : (advanceSequencer s).rOff = if s.rOff = 7 then 0 else s.rOff + 1 := rfl
@[simp] theorem advanceSequencer_rSent (s : State) : (advanceSequencer s).rSent = s.rSent + 1 := rfl
@[simp] theorem advanceSequencer_rErr (s : State) : (advanceSequencer s).rErr = s.rErr := rfl
@[simp] theorem advanceSequencer_trace (s : State) : (advanceSequencer s).trace = s.trace := rfl
@[simp] theorem advanceSequencer_rx (s : State) : (advanceSequencer s).rx = s.rx := rfl
@[simp] theorem advanceSequencer_pinDraws (s : State) : (advanceSequencer s).pinDraws = s.pinDraws := rfl
@[simp] theorem advanceSequencer_drawIndex (s : State) : (advanceSequencer s).drawIndex = s.drawIndex := rfl

/-! ### `hardwareIoError` -/

@[simp] theorem hardwareIoError_cfg (b : Bool) (s : State) : (hardwareIoError b s).cfg = s.cfg := by cases b <;> rfl
@[simp] theorem hardwareIoError_input (b : Bool) (s : State) : (hardwareIoError b s).input = s.input := by cases b <;> rfl
@[simp] theorem hardwareIoError_response (b : Bool) (s : State) : (hardwareIoError b s).response = some ⟨.hardwareIo, []⟩ := by cases b <;> rfl
@[simp] theorem hardwareIoError_reqIndex (b : Bool) (s : State) : (hardwareIoError b s).reqIndex = s.reqIndex := by cases b <;> rfl
@[simp] theorem hardwareIoError_clk (b : Bool) (s : State) : (hardwareIoError b s).clk = s.clk := by cases b <;> rfl
@[simp] theorem hardwareIoError_dio (b : Bool) (s : State) : (hardwareIoError b s).dio = s.dio := by cases b <;> rfl
@[simp] theorem hardwareIoError_intensity (b : Bool) (s : State) : (hardwareIoError b s).intensity = s.intensity := by cases b <;> rfl
@[simp] theorem hardwareIoError_active (b : Bool) (s : State) : (hardwareIoError b s).active = s.active := by cases b <;> rfl
@[simp] theorem hardwareIoError_initDone (b : Bool) (s : State) : (hardwareIoError b s).initDone = s.initDone := by cases b <;> rfl
@[simp] theorem hardwareIoError_corrupted (b : Bool) (s : State) : (hardwareIoError b s).corrupted = true := by cases b <;> rfl
@[simp] theorem hardwareIoError_marks (b : Bool) (s : State) : (hardwareIoError b s).marks = s.marks ++ [⟨.hardwareIo, s.reqIndex⟩] := by cases b <;> rfl
@[simp] theorem hardwareIoError_rStatus (b : Bool) (s : State) : (hardwareIoError b s).rStatus = if b then .faulted else s.rStatus := by cases b <;> rfl
@[simp] theorem hardwareIoError_rMsg (b : Bool) (s : State) : (hardwareIoError b s).rMsg = s.rMsg := by cases b <;> rfl
@[simp] theorem hardwareIoError_rDelay (b : Bool) (s : State) : (hardwareIoError b s).rDelay = s.rDelay := by cases b <;> rfl
@[simp] theorem hardwareIoError_rPair (b : Bool) (s : State) : (hardwareIoError b s).rPair = s.rPair := by cases b <;> rfl
@[simp] theorem hardwareIoError_rOff (b : Bool) (s : State) : (hardwareIoError b s).rOff = s.rOff := by cases b <;> rfl
@[simp] theorem hardwareIoError_rSent (b : Bool) (s : State) : (hardwareIoError b s).rSent = s.rSent := by cases b <;> rfl
@[simp] theorem hardwareIoError_rErr (b : Bool) (s : State) : (hardwareIoError b s).rErr = if b then some .hardwareIo else s.rErr := by cases b <;> rfl
@[simp] theorem hardwareIoError_trace (b : Bool) (s : State) : (hardwareIoError b s).trace = s.trace := by cases b <;> rfl
@[simp] theorem hardwareIoError_rx (b : Bool) (s : State) : (hardwareIoError b s).rx = s.rx := by cases b <;> rfl
@[simp] theorem hardwareIoError_pinDraws (b : Bool) (s : State) : (hardwareIoError b s).pinDraws = s.pinDraws := by cases b <;> rfl
@[simp] theorem hardwareIoError_drawIndex (b : Bool) (s : State) : (hardwareIoError b s).drawIndex = s.drawIndex := by cases b <;> rfl

/-! ### `initRegisters` -/

@[simp] theorem initRegisters_cfg (a : Bool) (l : Half) (s : State) : (initRegisters a l s).cfg = s.cfg := rfl
@[simp] theorem initRegisters_input (a : Bool) (l : Half) (s : State) : (initRegisters a l s).input = s.input := rfl
@[simp] theorem initRegisters_response (a : Bool) (l : Half) (s : State) : (initRegisters a l s).response = s.response := rfl
@[simp] theorem initRegisters_reqIndex (a : Bool) (l : Half) (s : State) : (initRegisters a l s).reqIndex = s.reqIndex := rfl
@[simp] theorem initRegisters_clk (a : Bool) (l : Half) (s : State) : (initRegisters a l s).clk = s.clk := rfl
@[simp] theorem initRegisters_dio (a : Bool) (l : Half) (s : State) : (initRegisters a l s).dio = s.dio := rfl
@[simp] theorem initRegisters_intensity (a : Bool) (l : Half) (s : State) : (initRegisters a l s).intensity = clampLevel (sint16 l) := rfl
@[simp] theorem initRegisters_active (a : Bool) (l : Half) (s : State) : (initRegisters a l s).active = a := rfl
@[simp] theorem initRegisters_initDone (a : Bool) (l : Half) (s : State) : (initRegisters a l s).initDone = s.initDone := rfl
@[simp] theorem initRegisters_corrupted (a : Bool) (l : Half) (s : State) : (initRegisters a l s).corrupted = s.corrupted := rfl
@[simp] theorem initRegisters_marks (a : Bool) (l : Half) (s : State) : (initRegisters a l s).marks = s.marks := rfl
@[simp] theorem initRegisters_rStatus (a : Bool) (l : Half) (s : State) : (initRegisters a l s).rStatus = .idle := rfl
@[simp] theorem initRegisters_rMsg (a : Bool) (l : Half) (s : State) : (initRegisters a l s).rMsg = [] := rfl
@[simp] theorem initRegisters_rDelay (a : Bool) (l : Half) (s : State) : (initRegisters a l s).rDelay = 0 := rfl
@[simp] theorem initRegisters_rPair (a : Bool) (l : Half) (s : State) : (initRegisters a l s).rPair = 0 := rfl
@[simp] theorem initRegisters_rOff (a : Bool) (l : Half) (s : State) : (initRegisters a l s).rOff = 0 := rfl
@[simp] theorem initRegisters_rSent (a : Bool) (l : Half) (s : State) : (initRegisters a l s).rSent = 0 := rfl
@[simp] theorem initRegisters_rErr (a : Bool) (l : Half) (s : State) : (initRegisters a l s).rErr = none := rfl
@[simp] theorem initRegisters_trace (a : Bool) (l : Half) (s : State) : (initRegisters a l s).trace = s.trace := rfl
@[simp] theorem initRegisters_rx (a : Bool) (l : Half) (s : State) : (initRegisters a l s).rx = s.rx := rfl
@[simp] theorem initRegisters_pinDraws (a : Bool) (l : Half) (s : State) : (initRegisters a l s).pinDraws = s.pinDraws := rfl
@[simp] theorem initRegisters_drawIndex (a : Bool) (l : Half) (s : State) : (initRegisters a l s).drawIndex = s.drawIndex := rfl

/-! ### `takeInput` -/

@[simp] theorem takeInput_cfg (rest : List PortItem) (s : State) : (takeInput rest s).cfg = s.cfg := rfl
@[simp] theorem takeInput_input (rest : List PortItem) (s : State) : (takeInput rest s).input = rest := rfl
@[simp] theorem takeInput_response (rest : List PortItem) (s : State) : (takeInput rest s).response = s.response := rfl
@[simp] theorem takeInput_reqIndex (rest : List PortItem) (s : State) : (takeInput rest s).reqIndex = s.reqIndex := rfl
@[simp] theorem takeInput_clk (rest : List PortItem) (s : State) : (takeInput rest s).clk = s.clk := rfl
@[simp] theorem takeInput_dio (rest : List PortItem) (s : State) : (takeInput rest s).dio = s.dio := rfl
@[simp] theorem takeInput_intensity (rest : List PortItem) (s : State) : (takeInput rest s).intensity = s.intensity := rfl
@[simp] theorem takeInput_active (rest : List PortItem) (s : State) : (takeInput rest s).active = s.active := rfl
@[simp] theorem takeInput_initDone (rest : List PortItem) (s : State) : (takeInput rest s).initDone = s.initDone := rfl
@[simp] theorem takeInput_corrupted (rest : List PortItem) (s : State) : (takeInput rest s).corrupted = s.corrupted := rfl
@[simp] theorem takeInput_marks (rest : List PortItem) (s : State) : (takeInput rest s).marks = s.marks := rfl
@[simp] theorem takeInput_rStatus (rest : List PortItem) (s : State) : (takeInput rest s).rStatus = s.rStatus := rfl
@[simp] theorem takeInput_rMsg (rest : List PortItem) (s : State) : (takeInput rest s).rMsg = s.rMsg := rfl
@[simp] theorem takeInput_rDelay (rest : List PortItem) (s : State) : (takeInput rest s).rDelay = s.rDelay := rfl
@[simp] theorem takeInput_rPair (rest : List PortItem) (s : State) : (takeInput rest s).rPair = s.rPair := rfl
@[simp] theorem takeInput_rOff (rest : List PortItem) (s : State) : (takeInput rest s).rOff = s.rOff := rfl
@[simp] theorem takeInput_rSent (rest : List PortItem) (s : State) : (takeInput rest s).rSent = s.rSent := rfl
@[simp] theorem takeInput_rErr (rest : List PortItem) (s : State) : (takeInput rest s).rErr = s.rErr := rfl
@[simp] theorem takeInput_trace (rest : List PortItem) (s : State) : (takeInput rest s).trace = s.trace := rfl
@[simp] theorem takeInput_rx (rest : List PortItem) (s : State) : (takeInput rest s).rx = s.rx := rfl
@[simp] theorem takeInput_pinDraws (rest : List PortItem) (s : State) : (takeInput rest s).pinDraws = s.pinDraws := rfl
@[simp] theorem takeInput_drawIndex (rest : List PortItem) (s : State) : (takeInput rest s).drawIndex = s.drawIndex := rfl

/-! ### `closeRequest` -/

@[simp] theorem closeRequest_cfg (s : State) : (closeRequest s).cfg = s.cfg := rfl
@[simp] theorem closeRequest_input (s : State) : (closeRequest s).input = s.input := rfl
@[simp] theorem closeRequest_response (s : State) : (closeRequest s).response = s.response := rfl
@[simp] theorem closeRequest_reqIndex (s : State) : (closeRequest s).reqIndex = s.reqIndex + 1 := rfl
@[simp] theorem closeRequest_clk (s : State) : (closeRequest s).clk = s.clk := rfl
@[simp] theorem closeRequest_dio (s : State) : (closeRequest s).dio = s.dio := rfl
@[simp] theorem closeRequest_intensity (s : State) : (closeRequest s).intensity = s.intensity := rfl
@[simp] theorem closeRequest_active (s : State) : (closeRequest s).active = s.active := rfl
@[simp] theorem closeRequest_initDone (s : State) : (closeRequest s).initDone = s.initDone := rfl
@[simp] theorem closeRequest_corrupted (s : State) : (closeRequest s).corrupted = s.corrupted := rfl
@[simp] theorem closeRequest_marks (s : State) : (closeRequest s).marks = s.marks := rfl
@[simp] theorem closeRequest_rStatus (s : State) : (closeRequest s).rStatus = s.rStatus := rfl
@[simp] theorem closeRequest_rMsg (s : State) : (closeRequest s).rMsg = s.rMsg := rfl
@[simp] theorem closeRequest_rDelay (s : State) : (closeRequest s).rDelay = s.rDelay := rfl
@[simp] theorem closeRequest_rPair (s : State) : (closeRequest s).rPair = s.rPair := rfl
@[simp] theorem closeRequest_rOff (s : State) : (closeRequest s).rOff = s.rOff := rfl
@[simp] theorem closeRequest_rSent (s : State) : (closeRequest s).rSent = s.rSent := rfl
@[simp] theorem closeRequest_rErr (s : State) : (closeRequest s).rErr = s.rErr := rfl
@[simp] theorem closeRequest_trace (s : State) : (closeRequest s).trace = s.trace := rfl
@[simp] theorem closeRequest_rx (s : State) : (closeRequest s).rx = s.rx := rfl
@[simp] theorem closeRequest_pinDraws (s : State) : (closeRequest s).pinDraws = s.pinDraws := rfl
@[simp] theorem closeRequest_drawIndex (s : State) : (closeRequest s).drawIndex = s.drawIndex := rfl

/-! ### `offerItem` -/

@[simp] theorem offerItem_cfg (x : PortItem) (s : State) : (offerItem x s).cfg = s.cfg := rfl
@[simp] theorem offerItem_input (x : PortItem) (s : State) : (offerItem x s).input = x :: s.input := rfl
@[simp] theorem offerItem_response (x : PortItem) (s : State) : (offerItem x s).response = s.response := rfl
@[simp] theorem offerItem_reqIndex (x : PortItem) (s : State) : (offerItem x s).reqIndex = s.reqIndex := rfl
@[simp] theorem offerItem_clk (x : PortItem) (s : State) : (offerItem x s).clk = s.clk := rfl
@[simp] theorem offerItem_dio (x : PortItem) (s : State) : (offerItem x s).dio = s.dio := rfl
@[simp] theorem offerItem_intensity (x : PortItem) (s : State) : (offerItem x s).intensity = s.intensity := rfl
@[simp] theorem offerItem_active (x : PortItem) (s : State) : (offerItem x s).active = s.active := rfl
@[simp] theorem offerItem_initDone (x : PortItem) (s : State) : (offerItem x s).initDone = s.initDone := rfl
@[simp] theorem offerItem_corrupted (x : PortItem) (s : State) : (offerItem x s).corrupted = s.corrupted := rfl
@[simp] theorem offerItem_marks (x : PortItem) (s : State) : (offerItem x s).marks = s.marks := rfl
@[simp] theorem offerItem_rStatus (x : PortItem) (s : State) : (offerItem x s).rStatus = s.rStatus := rfl
@[simp] theorem offerItem_rMsg (x : PortItem) (s : State) : (offerItem x s).rMsg = s.rMsg := rfl
@[simp] theorem offerItem_rDelay (x : PortItem) (s : State) : (offerItem x s).rDelay = s.rDelay := rfl
@[simp] theorem offerItem_rPair (x : PortItem) (s : State) : (offerItem x s).rPair = s.rPair := rfl
@[simp] theorem offerItem_rOff (x : PortItem) (s : State) : (offerItem x s).rOff = s.rOff := rfl
@[simp] theorem offerItem_rSent (x : PortItem) (s : State) : (offerItem x s).rSent = s.rSent := rfl
@[simp] theorem offerItem_rErr (x : PortItem) (s : State) : (offerItem x s).rErr = s.rErr := rfl
@[simp] theorem offerItem_trace (x : PortItem) (s : State) : (offerItem x s).trace = s.trace := rfl
@[simp] theorem offerItem_rx (x : PortItem) (s : State) : (offerItem x s).rx = s.rx := rfl
@[simp] theorem offerItem_pinDraws (x : PortItem) (s : State) : (offerItem x s).pinDraws = s.pinDraws := rfl
@[simp] theorem offerItem_drawIndex (x : PortItem) (s : State) : (offerItem x s).drawIndex = s.drawIndex := rfl

end Sys2Proof.Machine
end

