-- ==== Sys2Proof/Laws/Ops.lean ====
section
/-! SUPPORT. What the shared operations can do, said once: emitting, driving pin writes with and without failures, the
transmission procedures as event lists, and the inversion of `transmit`. -/

namespace Sys2Proof.Machine

/-! ### Emitting a list of events -/

theorem emitAll_append (es fs : List Event) (s : State) : emitAll (es ++ fs) s = emitAll fs (emitAll es s) := by
  induction es generalizing s with
  | nil => rfl
  | cons e es ih => exact ih (emit e s)

@[simp] theorem emitAll_nil (s : State) : emitAll [] s = s := rfl

theorem emitAll_cons (e : Event) (es : List Event) (s : State) : emitAll (e :: es) s = emitAll es (emit e s) := rfl

/-- What `emitAll` leaves alone, and what it does to the trace. -/
theorem emitAll_induct {P : State → Prop} (hP : ∀ e s, P s → P (emit e s)) (es : List Event) {s : State} (h : P s) :
    P (emitAll es s) := by
  induction es generalizing s with
  | nil => exact h
  | cons e es ih => exact ih (hP e s h)

@[simp] theorem emitAll_trace (es : List Event) (s : State) : (emitAll es s).trace = s.trace ++ es := by
  induction es generalizing s with
  | nil => simp
  | cons e es ih => simp [emitAll_cons, ih]

@[simp] theorem emitAll_cfg (es : List Event) (s : State) : (emitAll es s).cfg = s.cfg :=
  emitAll_induct (P := fun t => t.cfg = s.cfg) (fun _ _ h => by simpa using h) es rfl

@[simp] theorem emitAll_input (es : List Event) (s : State) : (emitAll es s).input = s.input :=
  emitAll_induct (P := fun t => t.input = s.input) (fun _ _ h => by simpa using h) es rfl

@[simp] theorem emitAll_response (es : List Event) (s : State) : (emitAll es s).response = s.response :=
  emitAll_induct (P := fun t => t.response = s.response) (fun _ _ h => by simpa using h) es rfl

@[simp] theorem emitAll_reqIndex (es : List Event) (s : State) : (emitAll es s).reqIndex = s.reqIndex :=
  emitAll_induct (P := fun t => t.reqIndex = s.reqIndex) (fun _ _ h => by simpa using h) es rfl

@[simp] theorem emitAll_intensity (es : List Event) (s : State) : (emitAll es s).intensity = s.intensity :=
  emitAll_induct (P := fun t => t.intensity = s.intensity) (fun _ _ h => by simpa using h) es rfl

@[simp] theorem emitAll_active (es : List Event) (s : State) : (emitAll es s).active = s.active :=
  emitAll_induct (P := fun t => t.active = s.active) (fun _ _ h => by simpa using h) es rfl

@[simp] theorem emitAll_initDone (es : List Event) (s : State) : (emitAll es s).initDone = s.initDone :=
  emitAll_induct (P := fun t => t.initDone = s.initDone) (fun _ _ h => by simpa using h) es rfl

@[simp] theorem emitAll_corrupted (es : List Event) (s : State) : (emitAll es s).corrupted = s.corrupted :=
  emitAll_induct (P := fun t => t.corrupted = s.corrupted) (fun _ _ h => by simpa using h) es rfl

@[simp] theorem emitAll_rStatus (es : List Event) (s : State) : (emitAll es s).rStatus = s.rStatus :=
  emitAll_induct (P := fun t => t.rStatus = s.rStatus) (fun _ _ h => by simpa using h) es rfl

@[simp] theorem emitAll_rMsg (es : List Event) (s : State) : (emitAll es s).rMsg = s.rMsg :=
  emitAll_induct (P := fun t => t.rMsg = s.rMsg) (fun _ _ h => by simpa using h) es rfl

@[simp] theorem emitAll_rDelay (es : List Event) (s : State) : (emitAll es s).rDelay = s.rDelay :=
  emitAll_induct (P := fun t => t.rDelay = s.rDelay) (fun _ _ h => by simpa using h) es rfl

@[simp] theorem emitAll_rPair (es : List Event) (s : State) : (emitAll es s).rPair = s.rPair :=
  emitAll_induct (P := fun t => t.rPair = s.rPair) (fun _ _ h => by simpa using h) es rfl

@[simp] theorem emitAll_rOff (es : List Event) (s : State) : (emitAll es s).rOff = s.rOff :=
  emitAll_induct (P := fun t => t.rOff = s.rOff) (fun _ _ h => by simpa using h) es rfl

@[simp] theorem emitAll_rSent (es : List Event) (s : State) : (emitAll es s).rSent = s.rSent :=
  emitAll_induct (P := fun t => t.rSent = s.rSent) (fun _ _ h => by simpa using h) es rfl

@[simp] theorem emitAll_rErr (es : List Event) (s : State) : (emitAll es s).rErr = s.rErr :=
  emitAll_induct (P := fun t => t.rErr = s.rErr) (fun _ _ h => by simpa using h) es rfl

@[simp] theorem emitAll_pinDraws (es : List Event) (s : State) : (emitAll es s).pinDraws = s.pinDraws :=
  emitAll_induct (P := fun t => t.pinDraws = s.pinDraws) (fun _ _ h => by simpa using h) es rfl

@[simp] theorem emitAll_drawIndex (es : List Event) (s : State) : (emitAll es s).drawIndex = s.drawIndex :=
  emitAll_induct (P := fun t => t.drawIndex = s.drawIndex) (fun _ _ h => by simpa using h) es rfl

/-- The clock level after a list of events: the last write to it. -/
theorem emitAll_clk (es : List Event) (s : State) : (emitAll es s).clk = es.foldl (fun l e => clkAfter e l) s.clk := by
  induction es generalizing s with
  | nil => rfl
  | cons e es ih => simp [emitAll_cons, ih]

/-- The data level after a list of events: the last write to it. -/
theorem emitAll_dio (es : List Event) (s : State) : (emitAll es s).dio = es.foldl (fun l e => dioAfter e l) s.dio := by
  induction es generalizing s with
  | nil => rfl
  | cons e es ih => simp [emitAll_cons, ih]

/-- Marks are only added. -/
theorem emitAll_marks_prefix (es : List Event) (s : State) : s.marks <+: (emitAll es s).marks := by
  induction es generalizing s with
  | nil => exact List.prefix_refl _
  | cons e es ih =>
    refine List.IsPrefix.trans ?_ (ih (emit e s))
    rw [emit_marks]
    split_ifs
    · exact List.prefix_append _ _
    · exact List.prefix_refl _

/-! ### Driving pin writes -/

theorem tryEmit_noFault {s : State} (h : s.cfg.ioFaults = false) (e : Event) : tryEmit e s = (emit e s, true) := by
  unfold tryEmit
  cases pinOf e <;> simp [h]

theorem drive_nil (s : State) : drive [] s = (s, true) := rfl

/-- Without I/O faults every event of the list is emitted. -/
theorem drive_noFault (es : List Event) {s : State} (h : s.cfg.ioFaults = false) : drive es s = (emitAll es s, true) := by
  induction es generalizing s with
  | nil => rfl
  | cons e es ih =>
    unfold drive
    rw [tryEmit_noFault h]
    exact ih (by simpa using h)

/-- A property kept by an event and by a draw is kept by any list of pin writes, completed or aborted. -/
theorem drive_induct {P : State → Prop} (he : ∀ e s, P s → P (emit e s)) (hd : ∀ s, P s → P (takeDraw s))
    (es : List Event) {s : State} (h : P s) : P (drive es s).1 := by
  induction es generalizing s with
  | nil => exact h
  | cons e es ih =>
    have step : P (tryEmit e s).1 := by
      unfold tryEmit
      cases pinOf e with
      | none => exact he e s h
      | some line =>
        dsimp only
        split_ifs
        · exact he _ _ (hd s h)
        · exact he _ _ (hd s h)
        · exact he e s h
    unfold drive
    rcases htry : tryEmit e s with ⟨t, ok⟩
    rw [htry] at step
    cases ok
    · exact step
    · exact ih step

@[simp] theorem drive_cfg (es : List Event) (s : State) : (drive es s).1.cfg = s.cfg :=
  drive_induct (P := fun t => t.cfg = s.cfg) (fun _ _ h => by simpa using h) (fun _ h => by simpa using h) es rfl

@[simp] theorem drive_input (es : List Event) (s : State) : (drive es s).1.input = s.input :=
  drive_induct (P := fun t => t.input = s.input) (fun _ _ h => by simpa using h) (fun _ h => by simpa using h) es rfl

@[simp] theorem drive_response (es : List Event) (s : State) : (drive es s).1.response = s.response :=
  drive_induct (P := fun t => t.response = s.response) (fun _ _ h => by simpa using h) (fun _ h => by simpa using h) es rfl

@[simp] theorem drive_reqIndex (es : List Event) (s : State) : (drive es s).1.reqIndex = s.reqIndex :=
  drive_induct (P := fun t => t.reqIndex = s.reqIndex) (fun _ _ h => by simpa using h) (fun _ h => by simpa using h) es rfl

@[simp] theorem drive_intensity (es : List Event) (s : State) : (drive es s).1.intensity = s.intensity :=
  drive_induct (P := fun t => t.intensity = s.intensity) (fun _ _ h => by simpa using h) (fun _ h => by simpa using h) es rfl

@[simp] theorem drive_active (es : List Event) (s : State) : (drive es s).1.active = s.active :=
  drive_induct (P := fun t => t.active = s.active) (fun _ _ h => by simpa using h) (fun _ h => by simpa using h) es rfl

@[simp] theorem drive_initDone (es : List Event) (s : State) : (drive es s).1.initDone = s.initDone :=
  drive_induct (P := fun t => t.initDone = s.initDone) (fun _ _ h => by simpa using h) (fun _ h => by simpa using h) es rfl

@[simp] theorem drive_corrupted (es : List Event) (s : State) : (drive es s).1.corrupted = s.corrupted :=
  drive_induct (P := fun t => t.corrupted = s.corrupted) (fun _ _ h => by simpa using h) (fun _ h => by simpa using h) es rfl

@[simp] theorem drive_rStatus (es : List Event) (s : State) : (drive es s).1.rStatus = s.rStatus :=
  drive_induct (P := fun t => t.rStatus = s.rStatus) (fun _ _ h => by simpa using h) (fun _ h => by simpa using h) es rfl

@[simp] theorem drive_rMsg (es : List Event) (s : State) : (drive es s).1.rMsg = s.rMsg :=
  drive_induct (P := fun t => t.rMsg = s.rMsg) (fun _ _ h => by simpa using h) (fun _ h => by simpa using h) es rfl

@[simp] theorem drive_rDelay (es : List Event) (s : State) : (drive es s).1.rDelay = s.rDelay :=
  drive_induct (P := fun t => t.rDelay = s.rDelay) (fun _ _ h => by simpa using h) (fun _ h => by simpa using h) es rfl

@[simp] theorem drive_rPair (es : List Event) (s : State) : (drive es s).1.rPair = s.rPair :=
  drive_induct (P := fun t => t.rPair = s.rPair) (fun _ _ h => by simpa using h) (fun _ h => by simpa using h) es rfl

@[simp] theorem drive_rOff (es : List Event) (s : State) : (drive es s).1.rOff = s.rOff :=
  drive_induct (P := fun t => t.rOff = s.rOff) (fun _ _ h => by simpa using h) (fun _ h => by simpa using h) es rfl

@[simp] theorem drive_rSent (es : List Event) (s : State) : (drive es s).1.rSent = s.rSent :=
  drive_induct (P := fun t => t.rSent = s.rSent) (fun _ _ h => by simpa using h) (fun _ h => by simpa using h) es rfl

@[simp] theorem drive_rErr (es : List Event) (s : State) : (drive es s).1.rErr = s.rErr :=
  drive_induct (P := fun t => t.rErr = s.rErr) (fun _ _ h => by simpa using h) (fun _ h => by simpa using h) es rfl

/-- The number of pin writes in a list of events. -/
def pinCount (es : List Event) : Nat := (es.filter fun e => (pinOf e).isSome).length

@[simp] theorem pinCount_nil : pinCount [] = 0 := rfl

theorem pinCount_cons (e : Event) (es : List Event) :
    pinCount (e :: es) = (if (pinOf e).isSome then 1 else 0) + pinCount es := by
  unfold pinCount
  rw [List.filter_cons]
  split_ifs <;> simp [Nat.add_comm]

theorem pinCount_append (es fs : List Event) : pinCount (es ++ fs) = pinCount es + pinCount fs := by
  simp [pinCount]

/-- The draws of `k` pin writes have been taken. -/
def takeDraws : Nat → State → State
  | 0, s => s
  | k + 1, s => takeDraws k (takeDraw s)

theorem emit_takeDraw (e : Event) (s : State) : emit e (takeDraw s) = takeDraw (emit e s) := rfl

theorem emitAll_takeDraw (es : List Event) (s : State) : emitAll es (takeDraw s) = takeDraw (emitAll es s) := by
  induction es generalizing s with
  | nil => rfl
  | cons e es ih => rw [emitAll_cons, emitAll_cons, emit_takeDraw, ih]

theorem emitAll_takeDraws (k : Nat) (es : List Event) (s : State) : emitAll es (takeDraws k s) = takeDraws k (emitAll es s) := by
  induction k generalizing s with
  | zero => rfl
  | succ k ih => rw [takeDraws, ih, emitAll_takeDraw]; rfl

theorem takeDraws_eq (k : Nat) (s : State) :
    takeDraws k s = { s with pinDraws := s.pinDraws.drop k, drawIndex := s.drawIndex + k } := by
  induction k generalizing s with
  | zero => rfl
  | succ k ih =>
    rw [takeDraws, ih]
    simp [takeDraw, Nat.add_assoc, Nat.add_comm 1 k]

theorem takeDraws_add (j k : Nat) (s : State) : takeDraws j (takeDraws k s) = takeDraws (k + j) s := by
  simp [takeDraws_eq, Nat.add_assoc]

/-- `drive` when no pin write fails: every event is emitted, and with I/O faults each pin write has taken its draw. -/
theorem drive_completed {es : List Event} {s t : State} (h : drive es s = (t, true)) :
    t = takeDraws (if s.cfg.ioFaults then pinCount es else 0) (emitAll es s) := by
  cases hio : s.cfg.ioFaults with
  | false => rw [drive_noFault es hio] at h; simp [(Prod.mk.inj h).1.symm, takeDraws]
  | true =>
    rw [if_pos rfl]
    induction es generalizing s with
    | nil => simpa [drive, takeDraws] using h.symm
    | cons e es ih =>
      unfold drive tryEmit at h
      cases hpin : pinOf e with
      | none =>
        rw [hpin] at h
        have := ih h (by simpa using hio)
        simpa [pinCount_cons, hpin, emitAll_cons] using this
      | some line =>
        rw [hpin] at h
        simp only [hio, if_true] at h
        cases hdraw : nextDraw s with
        | true => simp [hdraw] at h
        | false =>
          rw [hdraw] at h
          have := ih (s := emit e (takeDraw s)) h (by simpa using hio)
          rw [this, emit_takeDraw, emitAll_takeDraw, pinCount_cons, hpin]
          show takeDraws _ (takeDraws 1 _) = _
          rw [takeDraws_add]
          rfl

/-- `drive` when a pin write fails: what came before it was emitted, and `IoFail` stands in its place. -/
theorem drive_aborted {es : List Event} {s t : State} (h : drive es s = (t, false)) :
    s.cfg.ioFaults = true ∧ ∃ pre e post line, es = pre ++ e :: post ∧ pinOf e = some line ∧
      t = takeDraws (pinCount pre + 1) (emit (.ioFail line) (emitAll pre s)) := by
  cases hio : s.cfg.ioFaults with
  | false => rw [drive_noFault es hio] at h; simp at h
  | true =>
    refine ⟨rfl, ?_⟩
    induction es generalizing s with
    | nil => simp [drive] at h
    | cons e es ih =>
      unfold drive tryEmit at h
      cases hpin : pinOf e with
      | none =>
        rw [hpin] at h
        obtain ⟨pre, e', post, line, rfl, hl, rfl⟩ := ih h (by simpa using hio)
        exact ⟨e :: pre, e', post, line, rfl, hl, by simp [pinCount_cons, hpin, emitAll_cons]⟩
      | some line =>
        rw [hpin] at h
        simp only [hio, if_true] at h
        cases hdraw : nextDraw s with
        | true =>
          rw [hdraw] at h
          exact ⟨[], e, es, line, rfl, hpin, by simpa [takeDraws, emit_takeDraw] using h.symm⟩
        | false =>
          rw [hdraw] at h
          obtain ⟨pre, e', post, line', rfl, hl, rfl⟩ := ih (s := emit e (takeDraw s)) h (by simpa using hio)
          refine ⟨e :: pre, e', post, line', rfl, hl, ?_⟩
          rw [emit_takeDraw, emitAll_takeDraw, emit_takeDraw, pinCount_cons, hpin]
          show takeDraws _ (takeDraws 1 _) = _
          rw [takeDraws_add, emitAll_cons]
          congr 1

/-- `drive` completes when the listed draws let every pin write through. -/
theorem drive_of_draws (es : List Event) (s : State) (rest : List Bool) (hio : s.cfg.ioFaults = true)
    (hd : s.pinDraws = List.replicate (pinCount es) false ++ rest) :
    drive es s = (takeDraws (pinCount es) (emitAll es s), true) := by
  induction es generalizing s with
  | nil => rfl
  | cons e es ih =>
    unfold drive tryEmit
    rw [pinCount_cons] at hd ⊢
    cases hpin : pinOf e with
    | none =>
      simp only [hpin, Option.isSome_none, Bool.false_eq_true, if_false, Nat.zero_add] at hd ⊢
      exact ih (emit e s) (by simpa using hio) (by simpa using hd)
    | some line =>
      simp only [hpin, Option.isSome_some, if_true, Nat.add_comm 1] at hd ⊢
      rw [List.replicate_succ, List.cons_append] at hd
      have hdraw : nextDraw s = false := by simp [nextDraw, hd]
      simp only [hio, if_true, hdraw, Bool.false_eq_true, if_false]
      rw [ih (emit e (takeDraw s)) (by simpa using hio) (by simp [hd]), emit_takeDraw, emitAll_takeDraw]
      rfl

/-- `drive` aborts at the first listed draw that is a failure. -/
theorem drive_of_failing_draw (pre : List Event) (e : Event) (post : List Event) (line : Line) (s : State) (rest : List Bool)
    (hio : s.cfg.ioFaults = true) (he : pinOf e = some line)
    (hd : s.pinDraws = List.replicate (pinCount pre) false ++ true :: rest) :
    drive (pre ++ e :: post) s = (takeDraws (pinCount pre + 1) (emit (.ioFail line) (emitAll pre s)), false) := by
  induction pre generalizing s with
  | nil =>
    have hdraw : nextDraw s = true := by simp [nextDraw, hd]
    simp [drive, tryEmit, he, hio, hdraw, takeDraws, emit_takeDraw]
  | cons d pre ih =>
    rw [List.cons_append]
    unfold drive tryEmit
    rw [pinCount_cons] at hd ⊢
    cases hpin : pinOf d with
    | none =>
      simp only [hpin, Option.isSome_none, Bool.false_eq_true, if_false, Nat.zero_add] at hd ⊢
      exact ih (emit d s) (by simpa using hio) (by simpa using hd)
    | some line' =>
      simp only [hpin, Option.isSome_some, if_true, Nat.add_comm 1] at hd ⊢
      rw [List.replicate_succ, List.cons_append] at hd
      have hdraw : nextDraw s = false := by simp [nextDraw, hd]
      simp only [hio, if_true, hdraw, Bool.false_eq_true, if_false]
      rw [ih (emit d (takeDraw s)) (by simpa using hio) (by simp [hd]), emit_takeDraw, emitAll_takeDraw, emit_takeDraw]
      rfl

/-! ### `transmit` -/

/-- `transmit` either completes its events and goes on, or ends in HardwareIoError. -/
theorem transmit_cases (b : Bool) (es : List Event) (k : State → State) (s : State) :
    (∃ t, drive es s = (t, true) ∧ transmit b es k s = k t) ∨
    (∃ t, drive es s = (t, false) ∧ transmit b es k s = hardwareIoError b t) := by
  unfold transmit
  rcases h : drive es s with ⟨t, ok⟩
  cases ok
  · exact .inr ⟨t, rfl, rfl⟩
  · exact .inl ⟨t, rfl, rfl⟩

theorem transmit_noFault (b : Bool) (es : List Event) (k : State → State) {s : State} (h : s.cfg.ioFaults = false) :
    transmit b es k s = k (emitAll es s) := by
  unfold transmit
  rw [drive_noFault es h]

/-! ### The prechecks -/

/-- A request with a precheck is refused before any `INIT`, refused while corrupted, or runs its body. -/
theorem withPrecheck_cases (body : State → Host.Outcome State Fault Refusal) (s : State) :
    (s.initDone = false ∧ withPrecheck body s = .next (raiseError .notInitialized s)) ∨
    (s.initDone = true ∧ s.corrupted = true ∧ withPrecheck body s = .next (raiseError .driverCorrupted s)) ∨
    (s.initDone = true ∧ s.corrupted = false ∧ withPrecheck body s = body s) := by
  unfold withPrecheck precheckDriver
  cases h1 : s.initDone <;> cases h2 : s.corrupted <;> simp

theorem withPrecheck_ready (body : State → Host.Outcome State Fault Refusal) {s : State} (hi : s.initDone = true)
    (hc : s.corrupted = false) : withPrecheck body s = body s := by
  simp [withPrecheck, precheckDriver, hi, hc]

/-! ### The procedures as event lists -/

/-- The bit slots of `tx_byte`, bit 0 first (R91, R140). -/
theorem txByte_slots (b : Byte) :
    txByte b = bitSlot (b.getLsbD 0) ++ (bitSlot (b.getLsbD 1) ++ (bitSlot (b.getLsbD 2) ++ (bitSlot (b.getLsbD 3) ++
      (bitSlot (b.getLsbD 4) ++ (bitSlot (b.getLsbD 5) ++ (bitSlot (b.getLsbD 6) ++ bitSlot (b.getLsbD 7))))))) := by
  simp [txByte, txBits]

@[simp] theorem txByte_length (b : Byte) : (txByte b).length = 24 := rfl

@[simp] theorem txTerm_length : txTerm.length = 4 := rfl

@[simp] theorem txCommand_length (c : Byte) : (txCommand c).length = 29 := by simp [txCommand]

@[simp] theorem txBytes_length (bs : List Byte) : (txBytes bs).length = 24 * bs.length := by
  induction bs with
  | nil => rfl
  | cons b bs ih => simp [txBytes, ih]; omega

@[simp] theorem txFrame_length (bs : List Byte) : (txFrame bs).length = 58 + 24 * bs.length := by
  simp [txFrame]; omega

theorem emitAll_txByte_levels (b : Byte) (s : State) :
    (emitAll (txByte b) s).clk = some true ∧ (emitAll (txByte b) s).dio = some (b.getLsbD 7) := by
  constructor
  · rw [emitAll_clk, txByte_slots]; rfl
  · rw [emitAll_dio, txByte_slots]; rfl

theorem emitAll_txTerm_levels (s : State) :
    (emitAll txTerm s).clk = some true ∧ (emitAll txTerm s).dio = some true := by
  constructor
  · rw [emitAll_clk]; rfl
  · rw [emitAll_dio]; rfl

end Sys2Proof.Machine
end

