-- ==== Sys2Proof/Laws/PerInstr.lean ====
section
/-! SUPPORT. The family `EncodeMatchesRow`: the encoding of an instruction has the match of its row of
spec/opcode_table.json under the row's mask, one lemma per constructor. -/

namespace Sys2Proof.Laws

/-- The mask and match of a row, as the table gives them. -/
structure Row where
  mask : Nat
  pattern : Nat

/-- The row of each constructor (spec/opcode_table.json). -/
def rowOf : Instr → Row
  | .init _ _ => ⟨0xFFFE0000, 0x00000000⟩
  | .sendByte _ => ⟨0xFFFFFF00, 0x10000000⟩
  | .sendCommand _ => ⟨0xFFFFFF00, 0x20000000⟩
  | .sendDataAt _ _ => ⟨0xFF00FF00, 0x30000000⟩
  | .sendFrame _ => ⟨0xFF00FFFF, 0x40000000⟩
  | .clear => ⟨0xFFFFFFFF, 0x50000000⟩
  | .terminate => ⟨0xFFFFFFFF, 0x60000000⟩
  | .setBrightness _ => ⟨0xFFFF0000, 0x70000000⟩
  | .setActive _ => ⟨0xFFFEFFFF, 0x80000000⟩
  | .mergeRow _ _ _ => ⟨0xFF000000, 0x90000000⟩
  | .packFrame _ _ _ => ⟨0xFF000000, 0xA0000000⟩
  | .scrollStart _ _ => ⟨0xFF000000, 0xB0000000⟩
  | .scrollStep => ⟨0xFFFFFFFF, 0xC0000000⟩
  | .scroll _ _ => ⟨0xFF000000, 0xD0000000⟩
  | .reservedE _ => ⟨0xF0000000, 0xE0000000⟩
  | .reservedF _ => ⟨0xF0000000, 0xF0000000⟩
  | .dataAuto => ⟨0xFF, 0x40⟩
  | .dataFixed => ⟨0xFF, 0x44⟩
  | .dispCtrl _ _ => ⟨0xF0, 0x80⟩
  | .addr _ => ⟨0xF0, 0xC0⟩
  | .data _ => ⟨0x00, 0x00⟩

/-- The word or byte of a port item, with its width. -/
def wordOf : PortItem → Nat × Nat
  | .request w _ => (32, w.toNat)
  | .wire (.first b) => (8, b.toNat)
  | .wire (.later b) => (8, b.toNat)
  | .wire .stop => (0, 0)

/-- The family: the encoded bits meet the row. -/
def EncodeMatchesRow.Statement (i : Instr) : Prop :=
  (wordOf (encode i)).2 &&& (rowOf i).mask = (rowOf i).pattern

/-- A request word meets a mask and match bit by bit. -/
theorem meets_of_bits (w m k : Word) (h : ∀ i < 32, (w.getLsbD i && m.getLsbD i) = k.getLsbD i) :
    w.toNat &&& m.toNat = k.toNat := by
  rw [← BitVec.toNat_and, (masked_eq_iff w m k).2 h]

theorem EncodeMatchesRow.init (active : Bool) (level : Half) : EncodeMatchesRow.Statement (.init active level) :=
  meets_of_bits (requestWord 0x0 (boolByte active) level) 0xFFFE0000 0x00000000 (by
    intro i hi
    simp only [getLsbD_requestWord, getLsbD_boolByte]
    interval_cases i <;> simp)

theorem EncodeMatchesRow.sendByte (b : Byte) : EncodeMatchesRow.Statement (.sendByte b) :=
  meets_of_bits (requestWord 0x1 0 (lowHalf b)) 0xFFFFFF00 0x10000000 (by
    intro i hi
    simp only [getLsbD_requestWord, getLsbD_lowHalf]
    interval_cases i <;> simp)

theorem EncodeMatchesRow.sendCommand (c : Byte) : EncodeMatchesRow.Statement (.sendCommand c) :=
  meets_of_bits (requestWord 0x2 0 (lowHalf c)) 0xFFFFFF00 0x20000000 (by
    intro i hi
    simp only [getLsbD_requestWord, getLsbD_lowHalf]
    interval_cases i <;> simp)

theorem EncodeMatchesRow.sendDataAt (a v : Byte) : EncodeMatchesRow.Statement (.sendDataAt a v) :=
  meets_of_bits (requestWord 0x3 a (lowHalf v)) 0xFF00FF00 0x30000000 (by
    intro i hi
    simp only [getLsbD_requestWord, getLsbD_lowHalf]
    interval_cases i <;> simp)

theorem EncodeMatchesRow.sendFrame (bytes : List Byte) : EncodeMatchesRow.Statement (.sendFrame bytes) :=
  meets_of_bits (requestWord 0x4 (BitVec.ofNat 8 bytes.length) 0) 0xFF00FFFF 0x40000000 (by
    intro i hi
    simp only [getLsbD_requestWord]
    interval_cases i <;> simp)

theorem EncodeMatchesRow.clear : EncodeMatchesRow.Statement .clear := by
  unfold EncodeMatchesRow.Statement; decide

theorem EncodeMatchesRow.terminate : EncodeMatchesRow.Statement .terminate := by
  unfold EncodeMatchesRow.Statement; decide

theorem EncodeMatchesRow.setBrightness (level : Half) : EncodeMatchesRow.Statement (.setBrightness level) :=
  meets_of_bits (requestWord 0x7 0 level) 0xFFFF0000 0x70000000 (by
    intro i hi
    simp only [getLsbD_requestWord]
    interval_cases i <;> simp)

theorem EncodeMatchesRow.setActive (on : Bool) : EncodeMatchesRow.Statement (.setActive on) :=
  meets_of_bits (requestWord 0x8 (boolByte on) 0) 0xFFFEFFFF 0x80000000 (by
    intro i hi
    simp only [getLsbD_requestWord, getLsbD_boolByte]
    interval_cases i <;> simp)

theorem EncodeMatchesRow.mergeRow (c1 c2 offset : Byte) : EncodeMatchesRow.Statement (.mergeRow c1 c2 offset) :=
  meets_of_bits (requestWord 0x9 offset (pairHalf c2 c1)) 0xFF000000 0x90000000 (by
    intro i hi
    simp only [getLsbD_requestWord]
    interval_cases i <;> simp)

theorem EncodeMatchesRow.packFrame (c1 c2 offset : Byte) : EncodeMatchesRow.Statement (.packFrame c1 c2 offset) :=
  meets_of_bits (requestWord 0xA offset (pairHalf c2 c1)) 0xFF000000 0xA0000000 (by
    intro i hi
    simp only [getLsbD_requestWord]
    interval_cases i <;> simp)

theorem EncodeMatchesRow.scrollStart (msg : List Byte) (delay : Half) : EncodeMatchesRow.Statement (.scrollStart msg delay) :=
  meets_of_bits (requestWord 0xB (BitVec.ofNat 8 msg.length) delay) 0xFF000000 0xB0000000 (by
    intro i hi
    simp only [getLsbD_requestWord]
    interval_cases i <;> simp)

theorem EncodeMatchesRow.scrollStep : EncodeMatchesRow.Statement .scrollStep := by
  unfold EncodeMatchesRow.Statement; decide

theorem EncodeMatchesRow.scroll (msg : List Byte) (delay : Half) : EncodeMatchesRow.Statement (.scroll msg delay) :=
  meets_of_bits (requestWord 0xD (BitVec.ofNat 8 msg.length) delay) 0xFF000000 0xD0000000 (by
    intro i hi
    simp only [getLsbD_requestWord]
    interval_cases i <;> simp)

theorem EncodeMatchesRow.reservedE (rest : BitVec 28) : EncodeMatchesRow.Statement (.reservedE rest) :=
  meets_of_bits ((0xE : BitVec 4) ++ rest) 0xF0000000 0xE0000000 (by
    intro i hi
    rw [BitVec.getLsbD_append]
    interval_cases i <;> simp)

theorem EncodeMatchesRow.reservedF (rest : BitVec 28) : EncodeMatchesRow.Statement (.reservedF rest) :=
  meets_of_bits ((0xF : BitVec 4) ++ rest) 0xF0000000 0xF0000000 (by
    intro i hi
    rw [BitVec.getLsbD_append]
    interval_cases i <;> simp)

theorem EncodeMatchesRow.dataAuto : EncodeMatchesRow.Statement .dataAuto := by
  unfold EncodeMatchesRow.Statement; decide

theorem EncodeMatchesRow.dataFixed : EncodeMatchesRow.Statement .dataFixed := by
  unfold EncodeMatchesRow.Statement; decide

theorem EncodeMatchesRow.dispCtrl (active : Bool) (intensity : BitVec 3) :
    EncodeMatchesRow.Statement (.dispCtrl active intensity) := by
  unfold EncodeMatchesRow.Statement; revert active intensity; decide

theorem EncodeMatchesRow.addr (offset : BitVec 4) : EncodeMatchesRow.Statement (.addr offset) := by
  unfold EncodeMatchesRow.Statement; revert offset; decide

theorem EncodeMatchesRow.data (b : Byte) : EncodeMatchesRow.Statement (.data b) := Nat.and_zero _

end Sys2Proof.Laws
end

