-- ==== Sys2Proof/Laws/Receiver.lean ====
section
/-! SUPPORT. What the reference receiver can do at one event, and what it makes of a byte, a start cue, a terminator and a
whole transaction. -/

namespace Sys2Proof.Machine

/-! ### Inversion -/

/-- Everything `apply` can do: forget the controller with a mark, set the mode, set the display control, or write RAM inside
`0..n-1` (R68 to R72). The phase and the receiver's own registers stay. -/
theorem rxApply_cases (n : Nat) (t : List Byte) (r : Receiver) :
    rxApply n t r = (rxHavoc r, true) ∨
    (∃ m, rxApply n t r = ({ r with mode := some m }, false)) ∨
    (∃ d, rxApply n t r = ({ r with disp := some d }, false)) ∨
    (∃ a d, a + d.length ≤ n ∧ rxApply n t r = ({ r with ram := Memory.writeList a d r.ram }, false)) := by
  unfold rxApply
  split
  · exact .inl rfl
  · unfold rxCommand
    split_ifs
    · exact .inr (.inl ⟨_, rfl⟩)
    · exact .inr (.inl ⟨_, rfl⟩)
    · exact .inr (.inr (.inl ⟨_, rfl⟩))
    · exact .inl rfl
  · rename_i c d ds
    unfold rxWrite
    dsimp only
    by_cases hc : c.extractLsb' 4 4 = 0xC
    · rw [if_pos hc]
      rcases hm : r.mode with _ | _ | _
      · exact .inl rfl
      · dsimp only
        split_ifs with h
        · exact .inr (.inr (.inr ⟨_, _, h, rfl⟩))
        · exact .inl rfl
      · dsimp only
        split_ifs with h
        · exact .inr (.inr (.inr ⟨_, _, by omega, rfl⟩))
        · exact .inl rfl
    · rw [if_neg hc]
      exact .inl rfl

/-- Everything an event can do to the controller: nothing, forget it with a mark, or take a transaction's effect at the
terminator's last event. -/
theorem rxEvent_cases (n : Nat) (clk dio : Option Bool) (e : Event) (r : Receiver) :
    ((rxEvent n clk dio e r).2 = false ∧ (rxEvent n clk dio e r).1.ram = r.ram ∧
      (rxEvent n clk dio e r).1.mode = r.mode ∧ (rxEvent n clk dio e r).1.disp = r.disp) ∨
    rxEvent n clk dio e r = (rxError r, true) ∨
    (r.phase = .txT3 ∧ e = .setDat true ∧ rxEvent n clk dio e r = rxApply n r.bytes { r with phase := .idle }) := by
  obtain ⟨phase, nbits, acc, bytes, ram, mode, disp⟩ := r
  cases phase
  · rcases e with b | b | ms | l
    · simp [rxEvent, rxInLost]
    · cases b
      · simp [rxEvent, rxInLost]
      · simp only [rxEvent, rxInLost]; split_ifs <;> simp
    · simp [rxEvent, rxInLost]
    · simp [rxEvent, rxInLost]
  · rcases e with b | b | ms | l
    · simp [rxEvent, rxInIdle]
    · cases b
      · simp only [rxEvent, rxInIdle]; split_ifs <;> simp [rxStart]
      · simp [rxEvent, rxInIdle]
    · simp [rxEvent, rxInIdle]
    · simp [rxEvent, rxInIdle]
  · rcases e with b | b | ms | l
    · cases b <;> simp [rxEvent, rxInTxB]
    · cases b
      · simp only [rxEvent, rxInTxB]; split_ifs <;> simp
      · simp [rxEvent, rxInTxB]
    · simp [rxEvent, rxInTxB]
    · simp [rxEvent, rxInTxB]
  · rcases e with b | b | ms | l
    · cases b
      · simp [rxEvent, rxInTxL]
      · cases dio with
        | none => simp [rxEvent, rxInTxL]
        | some v => simp only [rxEvent, rxInTxL, rxSample]; split_ifs <;> simp
    · simp [rxEvent, rxInTxL]
    · simp [rxEvent, rxInTxL]
    · simp [rxEvent, rxInTxL]
  · rcases e with b | b | ms | l
    · cases b <;> simp [rxEvent, rxInT1]
    · simp [rxEvent, rxInT1]
    · simp [rxEvent, rxInT1]
    · simp [rxEvent, rxInT1]
  · rcases e with b | b | ms | l
    · cases b <;> simp [rxEvent, rxInT2]
    · simp [rxEvent, rxInT2]
    · simp [rxEvent, rxInT2]
    · simp [rxEvent, rxInT2]
  · rcases e with b | b | ms | l
    · simp [rxEvent, rxInT3]
    · cases b
      · simp [rxEvent, rxInT3]
      · exact .inr (.inr ⟨rfl, rfl, rfl⟩)
    · simp [rxEvent, rxInT3]
    · simp [rxEvent, rxInT3]

/-! ### A byte inside a transaction (R65) -/

/-- The state after a list of events that the receiver takes without a mark. -/
def received (es : List Event) (clk dio : Option Bool) (rx : Receiver) (s : State) : State :=
  { s with trace := s.trace ++ es, clk := clk, dio := dio, rx := rx }

@[simp] theorem received_trace (es : List Event) (c d : Option Bool) (rx : Receiver) (s : State) :
    (received es c d rx s).trace = s.trace ++ es := rfl
@[simp] theorem received_clk (es : List Event) (c d : Option Bool) (rx : Receiver) (s : State) :
    (received es c d rx s).clk = c := rfl
@[simp] theorem received_dio (es : List Event) (c d : Option Bool) (rx : Receiver) (s : State) :
    (received es c d rx s).dio = d := rfl
@[simp] theorem received_rx (es : List Event) (c d : Option Bool) (rx : Receiver) (s : State) :
    (received es c d rx s).rx = rx := rfl

theorem received_received (es fs : List Event) (c d c' d' : Option Bool) (rx rx' : Receiver) (s : State) :
    received fs c' d' rx' (received es c d rx s) = received (es ++ fs) c' d' rx' s := by
  simp [received]

@[simp] theorem rxSample_phase (v : Bool) (r : Receiver) : (rxSample v r).phase = .txB := by
  unfold rxSample; dsimp only; split_ifs <;> rfl

/-- A bit slot at a bit boundary inside a transaction is one sample. -/
theorem emitAll_bitSlot (v : Bool) (s : State) (hp : s.rx.phase = .txB) :
    emitAll (bitSlot v) s =
      received (bitSlot v) (some true) (some v) (rxSample v s.rx) s := by
  obtain ⟨cfg, input, response, reqIndex, clk, dio, intensity, active, initDone, corrupted, marks, rStatus, rMsg, rDelay,
    rPair, rOff, rSent, rErr, trace, ⟨phase, nbits, acc, bytes, ram, mode, disp⟩, pinDraws, drawIndex⟩ := s
  simp only at hp
  subst hp
  simp [received, emitAll, emit, rxEvent, rxInTxB, rxInTxL, rxSample, clkAfter, dioAfter, bitSlot]

/-- The same after events already received. -/
theorem emitAll_bitSlot_received (v : Bool) (es : List Event) (c d : Option Bool) (rx : Receiver) (s : State)
    (hp : rx.phase = .txB) :
    emitAll (bitSlot v) (received es c d rx s) =
      received (es ++ (bitSlot v)) (some true) (some v) (rxSample v rx) s := by
  rw [emitAll_bitSlot v (received es c d rx s) hp, received_received]; rfl

/-- The eight sampled bits, least significant first, are the byte (R57). -/
theorem sampled_bits (b : Byte) :
    ((((((((0#8 ||| ((BitVec.ofBool (b.getLsbD 0)).zeroExtend 8 <<< 0)) ||| ((BitVec.ofBool (b.getLsbD 1)).zeroExtend 8 <<< 1)) |||
      ((BitVec.ofBool (b.getLsbD 2)).zeroExtend 8 <<< 2)) ||| ((BitVec.ofBool (b.getLsbD 3)).zeroExtend 8 <<< 3)) |||
      ((BitVec.ofBool (b.getLsbD 4)).zeroExtend 8 <<< 4)) ||| ((BitVec.ofBool (b.getLsbD 5)).zeroExtend 8 <<< 5)) |||
      ((BitVec.ofBool (b.getLsbD 6)).zeroExtend 8 <<< 6)) ||| ((BitVec.ofBool (b.getLsbD 7)).zeroExtend 8 <<< 7)) = b := by
  apply BitVec.eq_of_getLsbD_eq
  intro i hi
  have : i = 0 ∨ i = 1 ∨ i = 2 ∨ i = 3 ∨ i = 4 ∨ i = 5 ∨ i = 6 ∨ i = 7 := by omega
  rcases this with rfl | rfl | rfl | rfl | rfl | rfl | rfl | rfl <;> simp

/-- The eight samples of a byte, from a byte boundary. -/
theorem rxSample_byte (b : Byte) (r : Receiver) (hp : r.phase = .txB) (hn : r.nbits = 0) (ha : r.acc = 0) :
    rxSample (b.getLsbD 7) (rxSample (b.getLsbD 6) (rxSample (b.getLsbD 5) (rxSample (b.getLsbD 4) (rxSample (b.getLsbD 3)
      (rxSample (b.getLsbD 2) (rxSample (b.getLsbD 1) (rxSample (b.getLsbD 0) r))))))) =
      { r with bytes := r.bytes ++ [b] } := by
  obtain ⟨phase, nbits, acc, bytes, ram, mode, disp⟩ := r
  simp only at hp hn ha
  subst hp hn ha
  have more : ∀ (v : Bool) (n : Fin 8) (a : Byte), n ≠ 7 → rxSample v ⟨.txB, n, a, bytes, ram, mode, disp⟩ =
      ⟨.txB, n + 1, a ||| ((BitVec.ofBool v).zeroExtend 8 <<< n.val), bytes, ram, mode, disp⟩ := by
    intro v n a h; simp [rxSample, h]
  have last : ∀ (v : Bool) (a : Byte), rxSample v ⟨.txB, 7, a, bytes, ram, mode, disp⟩ =
      ⟨.txB, 0, 0, bytes ++ [a ||| ((BitVec.ofBool v).zeroExtend 8 <<< 7)], ram, mode, disp⟩ := by
    intro v a; simp [rxSample]
  rw [more _ 0 _ (by decide), more _ (0 + 1) _ (by decide), more _ (0 + 1 + 1) _ (by decide),
    more _ (0 + 1 + 1 + 1) _ (by decide), more _ (0 + 1 + 1 + 1 + 1) _ (by decide),
    more _ (0 + 1 + 1 + 1 + 1 + 1) _ (by decide), more _ (0 + 1 + 1 + 1 + 1 + 1 + 1) _ (by decide)]
  refine (last _ _).trans ?_
  exact congrArg (fun x => (⟨.txB, 0, 0, bytes ++ [x], ram, mode, disp⟩ : Receiver)) (sampled_bits b)

/-- At a byte boundary inside a transaction, the events of `tx_byte` are taken as exactly that byte (R65, R140). -/
theorem emitAll_txByte (b : Byte) (s : State) (hp : s.rx.phase = .txB) (hn : s.rx.nbits = 0) (ha : s.rx.acc = 0) :
    emitAll (txByte b) s =
      received (txByte b) (some true) (some (b.getLsbD 7)) { s.rx with bytes := s.rx.bytes ++ [b] } s := by
  rw [← rxSample_byte b s.rx hp hn ha, txByte_slots b]
  simp only [emitAll_append]
  rw [emitAll_bitSlot (b.getLsbD 0) s hp]
  iterate 7 rw [emitAll_bitSlot_received _ _ _ _ _ _ (rxSample_phase _ _)]
  simp only [List.append_assoc]

/-- The bytes of a transaction are taken one after the other. -/
theorem emitAll_txBytes (bs : List Byte) (s : State) (hp : s.rx.phase = .txB) (hn : s.rx.nbits = 0) (ha : s.rx.acc = 0)
    (hc : s.clk = some true) :
    ∃ d, emitAll (txBytes bs) s = received (txBytes bs) (some true) d { s.rx with bytes := s.rx.bytes ++ bs } s := by
  induction bs generalizing s with
  | nil => exact ⟨s.dio, by simp [txBytes, received, ← hc]⟩
  | cons b bs ih =>
    obtain ⟨d, h⟩ := ih (emitAll (txByte b) s) (by rw [emitAll_txByte b s hp hn ha]; exact hp)
      (by rw [emitAll_txByte b s hp hn ha]; exact hn) (by rw [emitAll_txByte b s hp hn ha]; exact ha)
      (emitAll_txByte_levels b s).1
    refine ⟨d, ?_⟩
    rw [txBytes, emitAll_append, h, emitAll_txByte b s hp hn ha]
    simp [received]

/-- The start cue at an idle receiver with the clock high (R64). -/
theorem emit_startCue (s : State) (hp : s.rx.phase = .idle) (hc : s.clk = some true) :
    emit startCue s = received [startCue] (some true) (some false) (rxStart s.rx) s := by
  obtain ⟨cfg, input, response, reqIndex, clk, dio, intensity, active, initDone, corrupted, marks, rStatus, rMsg, rDelay,
    rPair, rOff, rSent, rErr, trace, ⟨phase, nbits, acc, bytes, ram, mode, disp⟩, pinDraws, drawIndex⟩ := s
  simp only at hp hc
  subst hp hc
  simp [received, emit, startCue, rxEvent, rxInIdle, clkAfter, dioAfter]

/-- The mark of a receiver flag (R67, R72). -/
def undefinedMark (flag : Bool) (request : Nat) : List Mark := bif flag then [⟨.controllerUndefined, request⟩] else []

@[simp] theorem undefinedMark_false (n : Nat) : undefinedMark false n = [] := rfl

@[simp] theorem undefinedMark_true (n : Nat) : undefinedMark true n = [⟨.controllerUndefined, n⟩] := rfl

/-- The terminator at a byte boundary: the transaction takes effect (R66). -/
theorem emitAll_txTerm (s : State) (hp : s.rx.phase = .txB) (hn : s.rx.nbits = 0) :
    emitAll txTerm s =
      { s with
        trace := s.trace ++ txTerm, clk := some true, dio := some true
        rx := (rxApply s.cfg.addrCount s.rx.bytes { s.rx with phase := .idle }).1
        marks := s.marks ++
          undefinedMark (rxApply s.cfg.addrCount s.rx.bytes { s.rx with phase := .idle }).2 s.reqIndex } := by
  obtain ⟨cfg, input, response, reqIndex, clk, dio, intensity, active, initDone, corrupted, marks, rStatus, rMsg, rDelay,
    rPair, rOff, rSent, rErr, trace, ⟨phase, nbits, acc, bytes, ram, mode, disp⟩, pinDraws, drawIndex⟩ := s
  simp only at hp hn
  subst hp hn
  simp only [emitAll, emit, txTerm, rxEvent, rxInTxB, rxInT1, rxInT2, rxInT3, clkAfter, dioAfter]
  cases h : (rxApply cfg.addrCount bytes ⟨.idle, 0, acc, bytes, ram, mode, disp⟩).2 <;> simp [h]

/-- A transaction as events (R91). -/
def txTransaction (bs : List Byte) : List Event := startCue :: (txBytes bs ++ txTerm)

/-- The receiver after a whole transaction from idle, as `rxApply` gives it. -/
def afterTransaction (n : Nat) (bs : List Byte) (r : Receiver) : Receiver × Bool :=
  rxApply n bs { r with phase := .idle, nbits := 0, acc := 0, bytes := bs }

/-- A whole transaction from idle with the clock high is taken as exactly its bytes (R64 to R66). -/
theorem emitAll_txTransaction (bs : List Byte) (s : State) (hp : s.rx.phase = .idle) (hc : s.clk = some true) :
    emitAll (txTransaction bs) s =
      { s with
        trace := s.trace ++ txTransaction bs, clk := some true, dio := some true
        rx := (afterTransaction s.cfg.addrCount bs s.rx).1
        marks := s.marks ++ undefinedMark (afterTransaction s.cfg.addrCount bs s.rx).2 s.reqIndex } := by
  rw [txTransaction, emitAll_cons, emitAll_append, emit_startCue s hp hc]
  obtain ⟨d, h⟩ := emitAll_txBytes bs (received [startCue] (some true) (some false) (rxStart s.rx) s) rfl rfl rfl rfl
  rw [h, emitAll_txTerm _ rfl rfl]
  simp only [received, rxStart, afterTransaction, List.append_assoc, List.nil_append, List.cons_append]

theorem txCommand_eq (c : Byte) : txCommand c = txTransaction [c] := by
  simp [txCommand, txTransaction, txBytes]

theorem txFrame_eq (bs : List Byte) : txFrame bs = txTransaction [0x40] ++ txTransaction (0xC0 :: bs) := by
  simp [txFrame, txCommand, txTransaction, txBytes]

@[simp] theorem afterTransaction_phase (n : Nat) (bs : List Byte) (r : Receiver) :
    (afterTransaction n bs r).1.phase = .idle := by
  unfold afterTransaction
  rcases rxApply_cases n bs { r with phase := .idle, nbits := 0, acc := 0, bytes := bs } with h | ⟨_, h⟩ | ⟨_, h⟩ | ⟨_, _, _, h⟩ <;>
    exact congrArg (fun x => x.1.phase) h

/-! ### A receiver that is lost (R63) -/

/-- A bit slot changes nothing at a lost receiver: its data write falls while the clock is low. -/
theorem emitAll_bitSlot_lost (v : Bool) (s : State) (hp : s.rx.phase = .lost) :
    emitAll (bitSlot v) s =
      received (bitSlot v) (some true) (some v) s.rx s := by
  obtain ⟨cfg, input, response, reqIndex, clk, dio, intensity, active, initDone, corrupted, marks, rStatus, rMsg, rDelay,
    rPair, rOff, rSent, rErr, trace, ⟨phase, nbits, acc, bytes, ram, mode, disp⟩, pinDraws, drawIndex⟩ := s
  simp only at hp
  subst hp
  cases v <;> simp [received, emitAll, emit, rxEvent, rxInLost, clkAfter, dioAfter, bitSlot]

/-- The same after events already received. -/
theorem emitAll_bitSlot_lost_received (v : Bool) (es : List Event) (c d : Option Bool) (rx : Receiver) (s : State)
    (hp : rx.phase = .lost) :
    emitAll (bitSlot v) (received es c d rx s) =
      received (es ++ (bitSlot v)) (some true) (some v) rx s := by
  rw [emitAll_bitSlot_lost v (received es c d rx s) hp, received_received]; rfl

/-- A byte changes nothing at a lost receiver. -/
theorem emitAll_txByte_lost (b : Byte) (s : State) (hp : s.rx.phase = .lost) :
    emitAll (txByte b) s = received (txByte b) (some true) (some (b.getLsbD 7)) s.rx s := by
  rw [txByte_slots b]
  simp only [emitAll_append]
  rw [emitAll_bitSlot_lost (b.getLsbD 0) s hp]
  iterate 7 rw [emitAll_bitSlot_lost_received _ _ _ _ _ _ hp]
  simp only [List.append_assoc]

/-- Bytes change nothing at a lost receiver. -/
theorem emitAll_txBytes_lost (bs : List Byte) (s : State) (hp : s.rx.phase = .lost) (hc : s.clk = some true) :
    ∃ d, emitAll (txBytes bs) s = received (txBytes bs) (some true) d s.rx s := by
  induction bs generalizing s with
  | nil => exact ⟨s.dio, by simp [txBytes, received, ← hc]⟩
  | cons b bs ih =>
    obtain ⟨d, h⟩ := ih (received (txByte b) (some true) (some (b.getLsbD 7)) s.rx s) hp rfl
    exact ⟨d, by rw [txBytes, emitAll_append, emitAll_txByte_lost b s hp, h, received_received]; rfl⟩

/-- The terminator's last event finds a lost receiver again (R63). -/
theorem emitAll_txTerm_lost (s : State) (hp : s.rx.phase = .lost) :
    emitAll txTerm s = received txTerm (some true) (some true) { s.rx with phase := .idle } s := by
  obtain ⟨cfg, input, response, reqIndex, clk, dio, intensity, active, initDone, corrupted, marks, rStatus, rMsg, rDelay,
    rPair, rOff, rSent, rErr, trace, ⟨phase, nbits, acc, bytes, ram, mode, disp⟩, pinDraws, drawIndex⟩ := s
  simp only at hp
  subst hp
  simp [received, emitAll, emit, txTerm, rxEvent, rxInLost, clkAfter, dioAfter]

/-- A whole transaction is lost on a lost receiver, which is idle after it (R63, R67). -/
theorem emitAll_txTransaction_lost (bs : List Byte) (s : State) (hp : s.rx.phase = .lost) (hc : s.clk = some true) :
    emitAll (txTransaction bs) s =
      received (txTransaction bs) (some true) (some true) { s.rx with phase := .idle } s := by
  have cue : emit startCue s = received [startCue] (some true) (some false) s.rx s := by
    obtain ⟨cfg, input, response, reqIndex, clk, dio, intensity, active, initDone, corrupted, marks, rStatus, rMsg, rDelay,
      rPair, rOff, rSent, rErr, trace, ⟨phase, nbits, acc, bytes, ram, mode, disp⟩, pinDraws, drawIndex⟩ := s
    simp only at hp hc
    subst hp hc
    simp [received, emit, startCue, rxEvent, rxInLost, clkAfter, dioAfter]
  obtain ⟨d, h⟩ := emitAll_txBytes_lost bs (received [startCue] (some true) (some false) s.rx s) hp rfl
  rw [txTransaction, emitAll_cons, emitAll_append, cue, h, received_received, received_rx,
    emitAll_txTerm_lost (received _ _ _ s.rx s) hp, received_received, received_rx]
  simp

/-! ### A frame write (R150) -/

/-- The receiver after a frame write from idle. -/
def afterFrame (n : Nat) (bs : List Byte) (r : Receiver) : Receiver × Bool :=
  afterTransaction n (0xC0 :: bs) (afterTransaction n [0x40] r).1

/-- A frame write from idle: the address mode, then the bytes from offset 0, if there is one and all fit (R68, R71, R72). -/
theorem afterFrame_eq (n : Nat) (bs : List Byte) (r : Receiver) :
    afterFrame n bs r =
      if 1 ≤ bs.length ∧ bs.length ≤ n then
        ({ r with phase := .idle, nbits := 0, acc := 0, bytes := 0xC0 :: bs, mode := some .auto
                  ram := Memory.writeList 0 bs r.ram }, false)
      else ({ r with phase := .idle, nbits := 0, acc := 0, bytes := 0xC0 :: bs, ram := [], mode := none, disp := none },
        true) := by
  have e1 : (0xC0 : Byte).extractLsb' 4 4 = 0xC := by decide
  have e2 : ((0xC0 : Byte).extractLsb' 0 4).toNat = 0 := by decide
  cases bs with
  | nil => rfl
  | cons d ds =>
    simp only [afterFrame, afterTransaction, rxApply, rxCommand, rxWrite, e1, e2, if_true, Nat.zero_add, List.length_cons,
      rxHavoc]
    by_cases h : ds.length + 1 ≤ n
    · rw [if_pos h, if_pos ⟨by omega, h⟩]
    · rw [if_neg h, if_neg (fun x => h x.2)]

/-- The events of a frame write at an idle receiver with the clock high. -/
theorem emitAll_txFrame (bs : List Byte) (s : State) (hp : s.rx.phase = .idle) (hc : s.clk = some true) :
    emitAll (txFrame bs) s =
      { s with
        trace := s.trace ++ txFrame bs, clk := some true, dio := some true
        rx := (afterFrame s.cfg.addrCount bs s.rx).1
        marks := s.marks ++ undefinedMark (afterFrame s.cfg.addrCount bs s.rx).2 s.reqIndex } := by
  have one : (afterTransaction s.cfg.addrCount [0x40] s.rx).2 = false := rfl
  rw [txFrame_eq, emitAll_append, emitAll_txTransaction [0x40] s hp hc, emitAll_txTransaction _ _ rfl rfl, one]
  simp [afterFrame, List.append_assoc]

/-- A frame write at a receiver that is lost: the first transaction is lost, and the second finds no address mode. -/
theorem emitAll_txFrame_lost (bs : List Byte) (s : State) (hp : s.rx.phase = .lost) (hc : s.clk = some true)
    (hm : s.rx.mode = none) :
    emitAll (txFrame bs) s =
      { s with
        trace := s.trace ++ txFrame bs, clk := some true, dio := some true
        rx := { s.rx with phase := .idle, nbits := 0, acc := 0, bytes := 0xC0 :: bs, ram := [], mode := none, disp := none }
        marks := s.marks ++ undefinedMark true s.reqIndex } := by
  have key : ∀ r : Receiver, r.mode = none → afterTransaction s.cfg.addrCount (0xC0 :: bs) r =
      ({ r with phase := .idle, nbits := 0, acc := 0, bytes := 0xC0 :: bs, ram := [], mode := none, disp := none }, true) := by
    intro r hr
    cases bs with
    | nil => rfl
    | cons d ds =>
      simp only [afterTransaction, rxApply, rxWrite, hr, rxHavoc]
      split_ifs <;> rfl
  rw [txFrame_eq, emitAll_append, emitAll_txTransaction_lost [0x40] s hp hc, emitAll_txTransaction _ _ rfl rfl]
  simp only [received]
  rw [key { s.rx with phase := .idle } hm]
  simp

end Sys2Proof.Machine
end

