-- ==== Sys2Proof/Laws/Step.lean ====
section
/-! SUPPORT. One step by the kind of item at the port, and runs of several steps. -/

namespace Sys2Proof.Machine

theorem step_idle {s : State} (h : s.input = []) : step s = .next s := by
  unfold step
  rw [h]

theorem step_of_decode {s : State} {x : PortItem} {rest : List PortItem} {i : Instr} (h : s.input = x :: rest)
    (hd : decode x = .ok i) : step s = afterExec x (exec i (takeInput rest s)) := by
  unfold step
  rw [h]
  simp only [hd]

theorem step_of_undecoded {s : State} {x : PortItem} {rest : List PortItem} {e : DecodeError} (h : s.input = x :: rest)
    (hd : decode x = .error e) : step s = .next (undecoded x (takeInput rest s)) := by
  unfold step
  rw [h]
  simp only [hd]

/-- A step that answers a next state: nothing was at the port, an undecodable item was handled, or an instruction ran. -/
theorem step_cases {s t : State} (h : step s = .next t) :
    (s.input = [] ∧ t = s) ∨
    (∃ x rest e, s.input = x :: rest ∧ decode x = .error e ∧ t = undecoded x (takeInput rest s)) ∨
    (∃ x rest i u, s.input = x :: rest ∧ decode x = .ok i ∧ exec i (takeInput rest s) = .next u ∧
      t = match x with
        | .request _ _ => closeRequest u
        | .wire _ => u) := by
  rcases hin : s.input with _ | ⟨x, rest⟩
  · rw [step_idle hin] at h
    exact .inl ⟨rfl, by injection h with h; exact h.symm⟩
  · rcases hd : decode x with e | i
    · rw [step_of_undecoded hin hd] at h
      exact .inr (.inl ⟨x, rest, e, rfl, hd, by injection h with h; exact h.symm⟩)
    · rw [step_of_decode hin hd] at h
      refine .inr (.inr ⟨x, rest, i, ?_⟩)
      rcases hx : exec i (takeInput rest s) with u | f | r
      · rw [hx] at h
        refine ⟨u, rfl, hd, rfl, ?_⟩
        cases x <;> (injection h with h; exact h.symm)
      · rw [hx] at h
        cases x <;> cases h
      · rw [hx] at h
        cases x <;> cases h

theorem core_run_zero (s : State) : Sys2Proof.core.run 0 s = .next s := rfl

theorem core_run_succ {s t : State} (k : Nat) (h : step s = .next t) :
    Sys2Proof.core.run (k + 1) s = Sys2Proof.core.run k t := by
  have h' : Sys2Proof.core.step s = .next t := h
  simp only [Host.Core.run, h']

end Sys2Proof.Machine
end

