-- ==== Sys2Proof/Machine/Asm.lean ====
section
/-! DEFINITION. The assembler syntax of the host's requests (R109) and its pseudo-instruction (R110). The machine does not
use it. What the rule leaves open of the notation is in log entry 15. -/

namespace Sys2Proof.Machine.Asm

/-- A token of a line. -/
inductive Tok where
  /-- A mnemonic or a number. -/
  | word (cs : List Char)
  /-- A quoted character's code. -/
  | chr (c : Byte)
  /-- A quoted text's codes. -/
  | str (cs : List Byte)
  | comma
  | lbracket
  | rbracket
deriving DecidableEq, Repr

/-- Where the reader of a line stands. -/
inductive Mode where
  | gap
  | word (cs : List Char)
  | str (cs : List Byte)
  | quote
  | quoted (c : Byte)
  | comment
deriving DecidableEq, Repr

/-- The ASCII code of a character (R109). -/
def ascii (c : Char) : Option Byte := if c.toNat < 128 then some (BitVec.ofNat 8 c.toNat) else none

def isWordChar (c : Char) : Bool := c.isAlphanum || c = '_' || c = '-'

/-- A character between tokens. -/
def gapStep (c : Char) : Option (Mode × List Tok) :=
  if c = ' ' || c = '\t' then some (.gap, [])
  else if c = ';' then some (.comment, [])
  else if c = ',' then some (.gap, [.comma])
  else if c = '[' then some (.gap, [.lbracket])
  else if c = ']' then some (.gap, [.rbracket])
  else if c = '"' then some (.str [], [])
  else if c = '\'' then some (.quote, [])
  else if isWordChar c then some (.word [c], [])
  else none

/-- One character of a line. -/
def lexStep (m : Mode) (c : Char) : Option (Mode × List Tok) :=
  match m with
  | .comment => some (.comment, [])
  | .gap => gapStep c
  | .word cs =>
    if isWordChar c then some (.word (cs ++ [c]), [])
    else (gapStep c).map fun x => (x.1, .word cs :: x.2)
  | .str cs => if c = '"' then some (.gap, [.str cs]) else (ascii c).map fun b => (.str (cs ++ [b]), [])
  | .quote => (ascii c).map fun b => (.quoted b, [])
  | .quoted b => if c = '\'' then some (.gap, [.chr b]) else none

/-- The tokens of a line. -/
def lex : Mode → List Char → Option (List Tok)
  | .gap, [] => some []
  | .comment, [] => some []
  | .word cs, [] => some [.word cs]
  | _, [] => none
  | m, c :: cs =>
    match lexStep m c with
    | some (m', toks) => (lex m' cs).map (toks ++ ·)
    | none => none

/-- A digit in a base of at most 16. -/
def digit (base : Nat) (c : Char) : Option Nat :=
  let v := if c.isDigit then c.toNat - '0'.toNat
    else if 'a' ≤ c ∧ c ≤ 'f' then c.toNat - 'a'.toNat + 10
    else if 'A' ≤ c ∧ c ≤ 'F' then c.toNat - 'A'.toNat + 10
    else 16
  if v < base then some v else none

/-- The digits of a number, most significant first. -/
def digits (base : Nat) : Nat → List Char → Option Nat
  | n, [] => some n
  | n, c :: cs =>
    match digit base c with
    | some d => digits base (n * base + d) cs
    | none => none

/-- A number: decimal, signed decimal or `0x` hexadecimal. -/
def number : List Char → Option Int
  | [] => none
  | '0' :: 'x' :: c :: cs => (digits 16 0 (c :: cs)).map Int.ofNat
  | '-' :: c :: cs => (digits 10 0 (c :: cs)).map fun n => -Int.ofNat n
  | cs => (digits 10 0 cs).map Int.ofNat

/-- A number in a range. -/
def ranged (low high : Int) (t : Tok) : Option Int :=
  match t with
  | .word cs =>
    match number cs with
    | some n => if low ≤ n ∧ n ≤ high then some n else none
    | none => none
  | _ => none

/-- A byte `0..255`. -/
def byteArg (t : Tok) : Option Byte := (ranged 0 255 t).map (BitVec.ofInt 8)
/-- A level, any value of `sint16`. -/
def levelArg (t : Tok) : Option Half := (ranged (-32768) 32767 t).map (BitVec.ofInt 16)
/-- A delay in milliseconds. -/
def delayArg (t : Tok) : Option Half := (ranged 0 65535 t).map (BitVec.ofInt 16)
/-- A Boolean, `0` or `1`. -/
def boolArg (t : Tok) : Option Bool := (ranged 0 1 t).map (· == 1)
/-- An offset `0..8` (R112). -/
def offsetArg (t : Tok) : Option Byte := (ranged 0 8 t).map (BitVec.ofInt 8)
/-- A character: a number or a quoted character. -/
def charArg (t : Tok) : Option Byte :=
  match t with
  | .chr c => some c
  | _ => byteArg t
/-- A text of at most 255 characters. -/
def textArg (t : Tok) : Option (List Byte) :=
  match t with
  | .str cs => if cs.length ≤ msgMax then some cs else none
  | _ => none

/-- The bytes of a list up to its closing bracket, the end of the line. -/
def byteList : List Tok → Option (List Byte)
  | [t, .rbracket] => (byteArg t).map ([·])
  | t :: .comma :: ts =>
    match byteArg t, byteList ts with
    | some b, some bs => some (b :: bs)
    | _, _ => none
  | _ => none

/-- A bracketed list of at most 255 bytes. -/
def frameArg (ts : List Tok) : Option (List Byte) :=
  match ts with
  | [.lbracket, .rbracket] => some []
  | .lbracket :: ts =>
    match byteList ts with
    | some bs => if bs.length ≤ frameMax then some bs else none
    | none => none
  | _ => none

/-- `init` with its operands, or alone for `init 7, 1` (R110). -/
def initLine : List Tok → Option Instr
  | [] => some (.init true 7)
  | [x, .comma, y] =>
    match levelArg x, boolArg y with
    | some level, some active => some (.init active level)
    | _, _ => none
  | _ => none

/-- Three operands separated by commas. -/
def threeArgs {α β γ : Type} (f : Tok → Option α) (g : Tok → Option β) (h : Tok → Option γ)
    (k : α → β → γ → Instr) : List Tok → Option Instr
  | [x, .comma, y, .comma, z] =>
    match f x, g y, h z with
    | some a, some b, some c => some (k a b c)
    | _, _, _ => none
  | _ => none

/-- Two operands separated by a comma. -/
def twoArgs {α β : Type} (f : Tok → Option α) (g : Tok → Option β) (k : α → β → Instr) : List Tok → Option Instr
  | [x, .comma, y] =>
    match f x, g y with
    | some a, some b => some (k a b)
    | _, _ => none
  | _ => none

/-- One operand. -/
def oneArg {α : Type} (f : Tok → Option α) (k : α → Instr) : List Tok → Option Instr
  | [x] => (f x).map k
  | _ => none

/-- No operand. -/
def noArgs (i : Instr) (ts : List Tok) : Option Instr := if ts = [] then some i else none

/-- A mnemonic with its operands (R109). -/
def lineOf (mnemonic : List Char) (ts : List Tok) : Option Instr :=
  if mnemonic = "init".toList then initLine ts
  else if mnemonic = "send_byte".toList then oneArg byteArg .sendByte ts
  else if mnemonic = "send_command".toList then oneArg byteArg .sendCommand ts
  else if mnemonic = "send_data_at".toList then twoArgs byteArg byteArg .sendDataAt ts
  else if mnemonic = "send_frame".toList then (frameArg ts).map .sendFrame
  else if mnemonic = "clear".toList then noArgs .clear ts
  else if mnemonic = "terminate".toList then noArgs .terminate ts
  else if mnemonic = "set_brightness".toList then oneArg levelArg .setBrightness ts
  else if mnemonic = "set_active".toList then oneArg boolArg .setActive ts
  else if mnemonic = "merge_row".toList then threeArgs byteArg byteArg offsetArg .mergeRow ts
  else if mnemonic = "pack_frame".toList then threeArgs charArg charArg offsetArg .packFrame ts
  else if mnemonic = "scroll_start".toList then twoArgs textArg delayArg .scrollStart ts
  else if mnemonic = "scroll_step".toList then noArgs .scrollStep ts
  else if mnemonic = "scroll".toList then twoArgs textArg delayArg .scroll ts
  else none

/-- The requests of one line: one, or none for an empty line or a comment; `none` if the line is not of R109's syntax. -/
def assembleLine (line : String) : Option (List Instr) :=
  match lex .gap line.toList with
  | some [] => some []
  | some (.word m :: ts) => (lineOf m ts).map ([·])
  | _ => none

/-- A program: the requests of its lines in order, as they stand at the port. -/
def assemble : List String → Option (List PortItem)
  | [] => some []
  | l :: ls =>
    match assembleLine l, assemble ls with
    | some is, some rest => some (is.map encode ++ rest)
    | _, _ => none

end Sys2Proof.Machine.Asm
end

