-- ==== Sys2Proof/Tests/Slice0.lean ====
section
/-! SUPPORT. Tests, with their expected values from spec/95_test_vectors.md and the encodings, and for every statement with
hypotheses a state and operands that meet them. -/

namespace Sys2Proof.Tests

set_option Elab.async false

open Sys2Proof.Machine Sys2Proof.Machine.Stated

/-! ### The refusals of WellFormed -/

theorem test_wf_long_frame : (Instr.sendFrame (List.replicate 256 0)).wellFormed = false := by decide +kernel
theorem test_wf_long_scroll_start : (Instr.scrollStart (List.replicate 256 0) 0).wellFormed = false := by decide +kernel
theorem test_wf_long_scroll : (Instr.scroll (List.replicate 256 0) 0).wellFormed = false := by decide +kernel
theorem test_wf_merge_offset : (Instr.mergeRow 0 0 9).wellFormed = false := by decide
theorem test_wf_pack_offset : (Instr.packFrame 0 0 9).wellFormed = false := by decide

/-! ### Decoding: the words are written bit by bit from R100, R101 and R93 to R97 -/

theorem test_decode_init : decode (.request 0b0000_0000_00000001_1111111111111011 []) = .ok (.init true 0xFFFB) := by decide
theorem test_decode_sendByte : decode (.request 0b0001_0000_00000000_00000000_10100101 []) = .ok (.sendByte 0xA5) := by decide
theorem test_decode_sendCommand :
    decode (.request 0b0010_0000_00000000_00000000_10001111 []) = .ok (.sendCommand 0x8F) := by decide
theorem test_decode_sendDataAt :
    decode (.request 0b0011_0000_00000011_00000000_10000001 []) = .ok (.sendDataAt 3 0x81) := by decide
theorem test_decode_sendFrame :
    decode (.request 0b0100_0000_00000010_0000000000000000 [1, 2]) = .ok (.sendFrame [1, 2]) := by decide
theorem test_decode_clear : decode (.request 0b0101_0000_00000000_0000000000000000 []) = .ok .clear := by decide
theorem test_decode_terminate : decode (.request 0b0110_0000_00000000_0000000000000000 []) = .ok .terminate := by decide
theorem test_decode_setBrightness :
    decode (.request 0b0111_0000_00000000_1111111111111011 []) = .ok (.setBrightness 0xFFFB) := by decide
theorem test_decode_setActive : decode (.request 0b1000_0000_00000001_0000000000000000 []) = .ok (.setActive true) := by decide
theorem test_decode_mergeRow :
    decode (.request 0b1001_0000_00001000_01011010_10100101 []) = .ok (.mergeRow 0xA5 0x5A 8) := by decide
theorem test_decode_packFrame :
    decode (.request 0b1010_0000_00000011_01000010_01000001 []) = .ok (.packFrame 0x41 0x42 3) := by decide
theorem test_decode_scrollStart :
    decode (.request 0b1011_0000_00000010_0000000000110010 [0x41, 0x42]) = .ok (.scrollStart [0x41, 0x42] 50) := by decide
theorem test_decode_scrollStep : decode (.request 0b1100_0000_00000000_0000000000000000 []) = .ok .scrollStep := by decide
theorem test_decode_scroll :
    decode (.request 0b1101_0000_00000001_0000000000110010 [0x41]) = .ok (.scroll [0x41] 50) := by decide
theorem test_decode_reservedE :
    decode (.request 0b1110_0000_00000000_0000000000000001 []) = .ok (.reservedE 1) := by decide
theorem test_decode_reservedF :
    decode (.request 0b1111_1000_00000000_0000000000000000 []) = .ok (.reservedF 0x8000000) := by decide
theorem test_decode_dataAuto : decode (.wire (.first 0b0100_0000)) = .ok .dataAuto := by decide
theorem test_decode_dataFixed : decode (.wire (.first 0b0100_0100)) = .ok .dataFixed := by decide
theorem test_decode_dispCtrl : decode (.wire (.first 0b1000_1101)) = .ok (.dispCtrl true 5) := by decide
theorem test_decode_addr : decode (.wire (.first 0b1100_0011)) = .ok (.addr 3) := by decide
theorem test_decode_data : decode (.wire (.later 0b1100_0011)) = .ok (.data 0xC3) := by decide

/-- V-EX: `INIT` with `Z ≠ 0`; a payload byte too few; an offset of 9; a first byte without a meaning. -/
theorem test_decode_refusals :
    decode (.request 0x0F000000 []) = .error .maskMismatch ∧ decode (.request 0x40020000 [1]) = .error .payloadLength ∧
    decode (.request 0x90090000 []) = .error .offsetRange ∧ decode (.wire (.first 0x41)) = .error .reservedWireByte := by
  decide

/-! ### The states the tests start from -/

/-- The test font of 95_test_vectors.md: `A` and `B`. -/
def fontAB : Font :=
  [(0x41, ⟨0x18, 0x24, 0x42, 0x42, 0x7E, 0x42, 0x42, 0x00⟩), (0x42, ⟨0x3E, 0x42, 0x42, 0x3E, 0x42, 0x42, 0x3E, 0x00⟩)]

/-- Power-up with the test font. -/
def power : State := { State.reset with cfg := { Config.thisHardware with font := fontAB } }

/-- The lines high, the engine initialized, the receiver idle and the controller unknown. -/
def ready : State :=
  { power with
    clk := some true, dio := some true, intensity := 7, active := true, initDone := true
    rx := { Receiver.powerUp with phase := .idle } }

/-- The same with a receiver that has lost the framing. -/
def readyLost : State := { ready with rx := Receiver.powerUp }

/-- The same inside an open transaction, after its first byte. -/
def readyOpen : State := { ready with rx := { Receiver.powerUp with phase := .txB, bytes := [0xC0] } }

/-- The same with pin writes that may fail, and these draws. -/
def faulty (draws : List Bool) : State := { ready with cfg := { ready.cfg with ioFaults := true }, pinDraws := draws }

/-- A sequencer about to send frame `off` of the first pair of `msg`. -/
def scrolling (msg : List Byte) (off : Fin 8) : State :=
  { ready with rStatus := .running, rMsg := msg, rDelay := 50, rOff := off, rSent := off.val }

/-- Whether an outcome is a next state with a property. -/
def after (o : Host.Outcome State Fault Refusal) (p : State → Bool) : Bool :=
  match o with
  | .next t => p t
  | .fault _ => false
  | .refused _ => false

theorem next_with {o : Host.Outcome State Fault Refusal} {p : State → Bool} (h : after o p = true) :
    ∃ t, o = .next t ∧ p t = true := by
  cases o with
  | next t => exact ⟨t, rfl, h⟩
  | fault f => cases h
  | refused r => cases h

theorem answers {o : Host.Outcome State Fault Refusal} (h : after o (fun _ => true) = true) : ∃ t, o = .next t :=
  (next_with h).imp fun _ h => h.1

/-- The display RAM from offset 0. -/
def ramOf (t : State) (n : Nat) : List (Option Byte) := (List.range n).map (Memory.read t.rx.ram)

/-! ### The instructions -/

/-- V-LC: `init 7, 1` from power-up. -/
theorem test_init : after (exec (.init true 7) power) (fun t =>
    t.trace.length = 282 && t.response = some ⟨.ok, []⟩ && t.rx.disp = some (7, true) && t.rx.mode = some .auto &&
    ramOf t 9 = List.replicate 8 (some 0) ++ [none] && t.marks = []) = true := by decide +kernel

/-- V-LC: the first events, and the level -1. -/
theorem test_init_events : after (exec (.init false 0xFFFF) power) (fun t =>
    t.trace.take 7 = [.setClk false, .setClk true, .setDat true, .setDat false, .setClk false, .setDat false, .setClk true] &&
    t.intensity = 0 && t.rx.disp = some (0, false)) = true := by decide +kernel

/-- V-TX: `send_byte 0xA5` at an idle receiver. -/
theorem test_sendByte : after (exec (.sendByte 0xA5) ready) (fun t =>
    t.trace.length = 24 && t.rx.phase = .lost && t.marks = [⟨.unframed, 0⟩, ⟨.controllerUndefined, 0⟩]) = true := by
  decide +kernel

/-- V-TX: `send_command 0x40`. -/
theorem test_sendCommand : after (exec (.sendCommand 0x40) ready) (fun t =>
    t.trace.length = 29 && t.rx.mode = some .auto && t.rx.phase = .idle && t.marks = []) = true := by decide +kernel

/-- V-DD: `send_data_at 3, 0x81`, its third line of events. -/
theorem test_sendDataAt : after (exec (.sendDataAt 3 0x81) ready) (fun t =>
    t.trace.length = 82 && ramOf t 4 = [none, none, none, some 0x81] && t.rx.mode = some .fixed && t.marks = [] &&
    (t.trace.drop 54).take 6 = [.setClk false, .setDat true, .setClk true, .setClk false, .setDat false, .setClk true]) =
    true := by decide +kernel

/-- V-DD: `send_data_at 67` and `send_data_at 83`. -/
theorem test_sendDataAt_beyond :
    after (exec (.sendDataAt 67 0x55) ready) (fun t => t.marks = [⟨.invalidAddress, 0⟩] &&
      Memory.read t.rx.ram 3 = some 0x55) = true ∧
    after (exec (.sendDataAt 83 0x55) ready) (fun t =>
      t.marks = [⟨.invalidAddress, 0⟩, ⟨.controllerUndefined, 0⟩]) = true := by decide +kernel

/-- P1: `send_frame [1, 2]`. -/
theorem test_sendFrame : after (exec (.sendFrame [1, 2]) ready) (fun t =>
    t.trace.length = 106 && t.marks = [] && ramOf t 3 = [some 1, some 2, none] && t.rx.mode = some .auto) = true := by
  decide +kernel

/-- V-DD: 17 bytes go past the last address. -/
theorem test_sendFrame_beyond : after (exec (.sendFrame (List.replicate 17 1)) ready) (fun t =>
    t.trace.length = 466 && t.marks = [⟨.controllerUndefined, 0⟩] && t.rx.ram = []) = true := by decide +kernel

/-- V-DD: `clear`. -/
theorem test_clear : after (exec .clear ready) (fun t =>
    t.trace.length = 250 && ramOf t 9 = List.replicate 8 (some 0) ++ [none] && t.rx.mode = some .auto) = true := by
  decide +kernel

/-- V-TX, P4: the terminator's last event resynchronises a lost receiver. -/
theorem test_terminate : after (exec .terminate readyLost) (fun t =>
    t.trace = [.setDat false, .setClk false, .setClk true, .setDat true] && t.rx.phase = .idle &&
    t.marks = [⟨.unframed, 0⟩]) = true := by decide +kernel

/-- V-PB: levels -5 and 99. -/
theorem test_setBrightness :
    after (exec (.setBrightness 0xFFFB) ready) (fun t => t.intensity = 0 && t.rx.disp = some (0, true)) = true ∧
    after (exec (.setBrightness 99) ready) (fun t => t.intensity = 7 && t.trace.length = 29) = true := by decide +kernel

/-- V-PB: `set_active 0` at level 7 sends `0x87`. -/
theorem test_setActive : after (exec (.setActive false) ready) (fun t =>
    t.rx.disp = some (7, false) && t.rx.bytes = [0x87] && t.active = false) = true := by decide +kernel

/-- V-SC1: rows before any `INIT`. -/
theorem test_mergeRow :
    after (exec (.mergeRow 0x81 0x81 4) power) (fun t => t.response = some ⟨.ok, [0x18]⟩) = true ∧
    after (exec (.mergeRow 0x80 0x01 7) power) (fun t => t.response = some ⟨.ok, [0x03]⟩) = true ∧
    after (exec (.mergeRow 0x01 0x80 1) power) (fun t => t.response = some ⟨.ok, [0x00]⟩) = true := by decide +kernel

/-- V-SC2: `pack_frame 'A', 'B', 3`. -/
theorem test_packFrame : after (exec (.packFrame 0x41 0x42 3) power) (fun t =>
    t.response = some ⟨.ok, [0xC3, 0x44, 0x48, 0xC8, 0x4F, 0x48, 0xC8, 0x00]⟩) = true := by decide +kernel

/-- V-SC2: a missing glyph, and the blank policy. -/
theorem test_packFrame_missing :
    after (exec (.packFrame 0x41 0x43 3) power) (fun t =>
      t.response = some ⟨.missingGlyph, []⟩ && t.marks = [⟨.missingGlyph, 0⟩]) = true ∧
    after (exec (.packFrame 0x41 0x43 3) { power with cfg := { power.cfg with missingGlyph := .blank } }) (fun t =>
      t.response = some ⟨.ok, [0x03, 0x04, 0x08, 0x08, 0x0F, 0x08, 0x08, 0x00]⟩) = true := by decide +kernel

/-- V-SC3: `scroll_start`. -/
theorem test_scrollStart : after (exec (.scrollStart [0x41, 0x42] 50) ready) (fun t =>
    t.rStatus = .running && t.rMsg = [0x41, 0x42] && t.rDelay = 50 && t.trace = []) = true := by decide +kernel

/-- V-SC3: step 2. -/
theorem test_scrollStep : after (exec .scrollStep (scrolling [0x41, 0x42] 1)) (fun t =>
    t.trace.length = 251 && t.trace.head? = some (.sleep 50) && t.rOff = 2 && t.rSent = 2 &&
    ramOf t 8 = [0x0C, 0x12, 0x21, 0x21, 0x3F, 0x21, 0x21, 0x00].map some) = true := by decide +kernel

/-- V-SC3: step 8. -/
theorem test_scrollStep_last : after (exec .scrollStep (scrolling [0x41, 0x42] 7)) (fun t =>
    t.rStatus = .done && t.rPair = 1 && t.rOff = 0 && t.rSent = 8 &&
    ramOf t 8 = [0x7C, 0x84, 0x84, 0x7C, 0x84, 0x84, 0x7C, 0x00].map some) = true := by decide +kernel

/-- V-SC4: `scroll "A", 50` sends nothing. -/
theorem test_scroll_short : after (exec (.scroll [0x41] 50) ready) (fun t =>
    t.trace = [] && t.rStatus = .done && t.response = some ⟨.ok, []⟩) = true := by decide +kernel

/-- V-SC4: a missing glyph at the first pair stops before any event. -/
theorem test_scroll_missing : after (exec (.scroll [0x43, 0x41] 50) ready) (fun t =>
    t.trace = [] && t.rStatus = .faulted && t.rErr = some .missingGlyph && t.marks = [⟨.missingGlyph, 0⟩]) = true := by
  decide +kernel

theorem test_reservedE : after (exec (.reservedE 0) power) (fun t => t.response = some ⟨.invalidRequest, []⟩) = true := by
  decide +kernel
theorem test_reservedF : after (exec (.reservedF 0) power) (fun t => t.marks = [⟨.invalidRequest, 0⟩]) = true := by
  decide +kernel
theorem test_dataAuto : after (exec .dataAuto ready) (fun t => t.rx.mode = some .auto && t.trace.length = 29) = true := by
  decide +kernel
theorem test_dataFixed : after (exec .dataFixed ready) (fun t => t.rx.mode = some .fixed && t.rx.phase = .idle) = true := by
  decide +kernel
theorem test_dispCtrl : after (exec (.dispCtrl false 5) ready) (fun t => t.rx.disp = some (5, false)) = true := by
  decide +kernel
theorem test_addr : after (exec (.addr 15) ready) (fun t => t.rx.bytes = [0xCF] && t.rx.phase = .txB) = true := by
  decide +kernel
theorem test_data : after (exec (.data 0x81) readyOpen) (fun t => t.rx.bytes = [0xC0, 0x81] && t.dio = some true) = true := by
  decide +kernel

/-- P5, request 1: the tenth pin write of `clear` fails. -/
theorem test_hardware_io : after (exec .clear (faulty (List.replicate 9 false ++ [true]))) (fun t =>
    t.trace.length = 10 && t.trace.getLast? = some (.ioFail .clk) && t.clk = none && t.corrupted && t.rx.phase = .lost &&
    t.response = some ⟨.hardwareIo, []⟩ && t.marks = [⟨.controllerUndefined, 0⟩, ⟨.hardwareIo, 0⟩]) = true := by
  decide +kernel

/-- V-EX: `NotInitialized` is checked before `DriverCorrupted`. -/
theorem test_precheck_order : after (exec .clear { ready with initDone := false, corrupted := true }) (fun t =>
    t.response = some ⟨.notInitialized, []⟩) = true := by decide +kernel

/-- One step takes a request from the port and counts it. -/
theorem test_step : after (step (power.withFetchWord 32 0x90048181)) (fun t =>
    t.response = some ⟨.ok, [0x18]⟩ && t.reqIndex = 1 && t.input = []) = true := by decide +kernel

/-! ### The assembler (R109, R110) -/

theorem test_asm_words :
    Asm.assemble ["init 7, 1", "send_data_at 3, 0x81 ; one byte", "send_frame [0x01, 0x02]", "set_brightness -5"] =
      some [.request 0x00010007 [], .request 0x30030081 [], .request 0x40020000 [1, 2], .request 0x7000FFFB []] := by
  decide +kernel

theorem test_asm_pseudo :
    Asm.assemble ["init", "", "pack_frame 'A', 'B', 3", "scroll \"AB\", 50"] =
      some [.request 0x00010007 [], .request 0xA0034241 [], .request 0xD0020032 [0x41, 0x42]] := by decide +kernel

/-! ### Witnesses: the hypotheses of each statement, met together -/

theorem witness_DecodeOfEncode :
    (Instr.mergeRow 0 0 8).wellFormed = true ∧ (Instr.packFrame 0 0 8).wellFormed = true ∧
    (Instr.sendFrame (List.replicate 255 0)).wellFormed = true ∧ (Instr.scroll [] 0).wellFormed = true := by
  decide +kernel

theorem witness_EncodeOfDecode :
    decode (.request 0x90080000 []) = .ok (.mergeRow 0 0 8) ∧ decode (.wire (.later 0x40)) = .ok (.data 0x40) := by decide

/-- The two ends of each range of reserved first bytes. -/
theorem witness_WireBytesDecodeByValueAndPosition :
    ∀ b ∈ ([0x00, 0x3F, 0x41, 0x43, 0x45, 0x7F, 0x90, 0xBF, 0xD0, 0xFF] : List Byte),
      b ≠ 0x40 ∧ b ≠ 0x44 ∧ b.toNat / 16 ≠ 8 ∧ b.toNat / 16 ≠ 12 := by decide

theorem witness_StepRunsDecodedItem :
    (power.withFetchWord 32 0x50000000).input = .request 0x50000000 [] :: [] ∧
      decode (.request 0x50000000 []) = .ok .clear ∧
    (power.withFetchWord 8 0xC3).input = .wire (.first 0xC3) :: [] ∧ decode (.wire (.first 0xC3)) = .ok (.addr 3) := by
  decide +kernel

theorem witness_UndecodableRequestIsRefused :
    (power.withFetchWord 32 0x0F000000).input = .request 0x0F000000 [] :: [] ∧
    decodeRequest 0x0F000000 [] = .error .maskMismatch ∧ decodeRequest 0x40010000 [] = .error .payloadLength ∧
    decodeRequest 0x90090000 [] = .error .offsetRange ∧ decodeRequest 0xE0000000 [1] = .error .payloadLength := by
  decide +kernel

theorem witness_StepWithoutInstruction :
    ready.input = [] ∧ NoIoFaults ready ∧
    decodeWire (.first 0x3F) = .error .reservedWireByte ∧ decodeWire (.first 0xFF) = .error .reservedWireByte :=
  ⟨rfl, rfl, by decide, by decide⟩

/-- A step from a legal state: `clear` waits at the port. -/
theorem step_of_clear : ∃ t, step (ready.withFetchWord 32 0x50000000) = .next t := answers (by decide +kernel)

theorem witness_StepKeepsRamLegal :
    RamLegal (ready.withFetchWord 32 0x50000000) ∧ ∃ t, step (ready.withFetchWord 32 0x50000000) = .next t :=
  ⟨⟨rfl, fun _ h => nomatch h⟩, step_of_clear⟩

theorem ready_sequencer (input : List PortItem) : SequencerLegal { ready with input := input } :=
  ⟨Nat.zero_le _, rfl, rfl, rfl, rfl⟩

theorem witness_StepKeepsSequencerLegal :
    SequencerLegal (ready.withFetchWord 32 0x50000000) ∧ ∃ t, step (ready.withFetchWord 32 0x50000000) = .next t :=
  ⟨ready_sequencer _, step_of_clear⟩

theorem witness_StepKeepsWireLegal :
    WireLegal (ready.withFetchWord 32 0x50000000) ∧ (∃ t, step (ready.withFetchWord 32 0x50000000) = .next t) ∧
    WireLegal (power.withFetchWord 32 0x00010007) ∧ (∃ t, step (power.withFetchWord 32 0x00010007) = .next t) ∧
    WireLegal { readyOpen with input := [.wire .stop] } ∧ ∃ t, step { readyOpen with input := [.wire .stop] } = .next t :=
  ⟨.inr (.inl ⟨rfl, rfl, rfl⟩), step_of_clear,
    .inl ⟨rfl, rfl, rfl, rfl, nofun⟩, answers (by decide +kernel),
    .inr (.inr ⟨rfl, rfl, rfl, nofun, rfl⟩), answers (by decide +kernel)⟩

/-- A corrupted state with its mark. -/
def corruptedReady : State := { faulty [] with corrupted := true, marks := [⟨.hardwareIo, 0⟩], reqIndex := 1 }

theorem witness_StepKeepsMarksLegal :
    CorruptionMarked (corruptedReady.withFetchWord 32 0x50000000) ∧ MarksLegal (corruptedReady.withFetchWord 32 0x50000000) ∧
    ∃ t, step (corruptedReady.withFetchWord 32 0x50000000) = .next t :=
  ⟨fun _ => ⟨rfl, ⟨.hardwareIo, 0⟩, by decide, rfl⟩, by
    intro m h
    have h : m ∈ ([⟨.hardwareIo, 0⟩] : List Mark) := h
    rw [List.mem_singleton.1 h]
    decide, answers (by decide +kernel)⟩

theorem witness_LegalStepAlwaysAnswers :
    SequencerLegal ready ∧ SequencerLegal (scrolling [0x41, 0x42] 7) ∧
    SequencerLegal { ready with rStatus := .done, rMsg := [0x41, 0x42], rPair := 1, rSent := 8 } ∧
    SequencerLegal { ready with rStatus := .faulted, rMsg := [0x41, 0x43], rErr := some .missingGlyph } :=
  ⟨ready_sequencer [], ⟨by decide, rfl, by decide, rfl⟩, ⟨by decide, rfl, .inr ⟨rfl, rfl⟩, rfl⟩,
    ⟨by decide, rfl, by decide, .inl rfl⟩⟩

theorem witness_StepKeepsHistory :
    ∃ t, step { ready with marks := [⟨.unframed, 0⟩], trace := [.setClk true], input := [.request 0x50000000 []] } = .next t :=
  answers (by decide +kernel)

theorem witness_RequestKeepsIdleLines : Instr.clear.isRequest = true ∧ LinesHigh ready ∧
    ∃ t, exec .clear ready = .next t ∧ (t.initDone && !t.corrupted && decide (t.marks = [])) = true :=
  ⟨rfl, ⟨rfl, rfl⟩, next_with (by decide +kernel)⟩

theorem witness_OnlyScrollRequestsMoveSequencer : movesSequencer .clear = false ∧ ∃ t, exec .clear ready = .next t :=
  ⟨rfl, answers (by decide +kernel)⟩

/-- A finished and a faulted sequencer, each under a step that leaves it so and a start that does not. -/
theorem witness_DoneAndFaultedAreTerminal :
    (∃ t, exec .scrollStep { ready with rStatus := .done } = .next t) ∧
    (∃ t, exec .scrollStep { ready with rStatus := .faulted, rErr := some .missingGlyph } = .next t) ∧
    ∃ t, exec (.scrollStart [] 0) { ready with rStatus := .done } = .next t :=
  ⟨answers (by decide +kernel), answers (by decide +kernel), answers (by decide +kernel)⟩

theorem witness_WritersOfEngineRegisters :
    ∃ t, exec (.setBrightness 3) ready = .next t ∧ decide (t.intensity = 3) = true := next_with (by decide +kernel)

/-- The state `ready` as another observer would have it. -/
def observedReady : State :=
  { ready with clk := none, dio := none, marks := [⟨.unframed, 0⟩], trace := [.setClk true], rx := Receiver.powerUp,
               response := some ⟨.done, []⟩, reqIndex := 5, input := [.wire .stop] }

theorem witness_RequestsReadNoObserver : Instr.clear.isRequest = true ∧
    observedReady = { ready with
      clk := observedReady.clk, dio := observedReady.dio, marks := observedReady.marks, trace := observedReady.trace
      rx := observedReady.rx, response := observedReady.response, reqIndex := observedReady.reqIndex
      input := observedReady.input } ∧
    ∃ t, exec .clear ready = .next t := ⟨rfl, rfl, answers (by decide +kernel)⟩

/-- Both kinds of receiver, and the frame lengths at the two ends of either clause. -/
theorem witness_InitResult :
    NoIoFaults power ∧ power.rx.phase = .lost ∧ ready.rx.phase = .idle ∧
    (∀ n ∈ [1, 16], 1 ≤ n ∧ n ≤ power.cfg.addrCount) ∧ ∀ n ∈ [0, 17], ¬ (1 ≤ n ∧ n ≤ power.cfg.addrCount) :=
  ⟨rfl, rfl, rfl, by decide, by decide⟩

/-- What most request statements ask of the state. -/
theorem ready_hypotheses : NoIoFaults ready ∧ Ready ready ∧ ReceiverIdle ready ∧ LinesHigh ready :=
  ⟨rfl, ⟨rfl, rfl⟩, ⟨rfl, rfl⟩, ⟨rfl, rfl⟩⟩

theorem readyLost_hypotheses :
    NoIoFaults readyLost ∧ Ready readyLost ∧ readyLost.rx.phase = .lost ∧ readyLost.clk = some true ∧
      readyLost.rx.mode = none := ⟨rfl, ⟨rfl, rfl⟩, rfl, rfl, rfl⟩

theorem witness_SendByteResult :
    (NoIoFaults ready ∧ Ready ready ∧ ready.rx.phase = .idle) ∧ (0xFE : Byte) ≠ 0xFF ∧
    (NoIoFaults readyLost ∧ Ready readyLost ∧ readyLost.rx.phase = .lost) :=
  ⟨⟨rfl, ⟨rfl, rfl⟩, rfl⟩, by decide, rfl, ⟨rfl, rfl⟩, rfl⟩

theorem witness_SendCommandResult :
    (NoIoFaults ready ∧ Ready ready ∧ ReceiverIdle ready) ∧ (0x80 : Byte).toNat / 16 = 8 ∧ (0x8F : Byte).toNat / 16 = 8 ∧
    (NoIoFaults readyLost ∧ Ready readyLost ∧ readyLost.rx.phase = .lost ∧ readyLost.clk = some true) :=
  ⟨⟨rfl, ⟨rfl, rfl⟩, rfl, rfl⟩, by decide, by decide, rfl, ⟨rfl, rfl⟩, rfl, rfl⟩

theorem witness_TerminateResult :
    (NoIoFaults ready ∧ Ready ready ∧ ReceiverIdle ready) ∧
    (NoIoFaults readyLost ∧ Ready readyLost ∧ readyLost.rx.phase = .lost) :=
  ⟨⟨rfl, ⟨rfl, rfl⟩, rfl, rfl⟩, rfl, ⟨rfl, rfl⟩, rfl⟩

/-- The operands 0 and 15 are stored to, 16 is not; 64 is, though it is marked. -/
theorem witness_SendDataAtResult :
    (NoIoFaults ready ∧ Ready ready ∧ ReceiverIdle ready) ∧
    (∀ a ∈ ([0, 15, 64, 79] : List Byte),
      (0xC0 ||| a).toNat / 16 = 12 ∧ (0xC0 ||| a).toNat % 16 < ready.cfg.addrCount) ∧
    (∀ a ∈ ([16, 63, 80, 255] : List Byte), (0xC0 ||| a).toNat / 16 ≠ 12) ∧
    (∀ a ∈ ([16, 255] : List Byte), ready.cfg.addrCount ≤ a.toNat) ∧
    (NoIoFaults readyLost ∧ Ready readyLost ∧ readyLost.rx.phase = .lost ∧ readyLost.clk = some true ∧
      readyLost.rx.mode = none) :=
  ⟨⟨rfl, ⟨rfl, rfl⟩, rfl, rfl⟩, by decide, by decide, by decide, readyLost_hypotheses⟩

theorem witness_AddressByteByRange :
    (0 : Byte).toNat ≤ 15 ∧ (15 : Byte).toNat ≤ 15 ∧ (16 ≤ (16 : Byte).toNat ∧ (16 : Byte).toNat ≤ 63) ∧
    (16 ≤ (63 : Byte).toNat ∧ (63 : Byte).toNat ≤ 63) ∧ 64 ≤ (64 : Byte).toNat ∧ 64 ≤ (255 : Byte).toNat := by decide

theorem witness_FrameWriteResult :
    (NoIoFaults ready ∧ Ready ready ∧ ReceiverIdle ready) ∧
    (∀ n ∈ [1, 16], 1 ≤ (List.replicate n (0 : Byte)).length ∧ (List.replicate n (0 : Byte)).length ≤ ready.cfg.addrCount) ∧
    (∀ n ∈ [0, 17], ¬ (1 ≤ (List.replicate n (0 : Byte)).length ∧
      (List.replicate n (0 : Byte)).length ≤ ready.cfg.addrCount)) ∧
    (NoIoFaults readyLost ∧ Ready readyLost ∧ readyLost.rx.phase = .lost ∧ readyLost.clk = some true ∧
      readyLost.rx.mode = none) :=
  ⟨⟨rfl, ⟨rfl, rfl⟩, rfl, rfl⟩, by decide, by decide, readyLost_hypotheses⟩

theorem witness_ClearIsIdempotent :
    (NoIoFaults ready ∧ Ready ready ∧ ReceiverIdle ready ∧ 1 ≤ ready.cfg.frameN ∧ ready.cfg.frameN ≤ ready.cfg.addrCount) ∧
    ∃ t, exec .clear ready = .next t ∧ after (exec .clear t) (fun _ => true) = true :=
  ⟨⟨rfl, ⟨rfl, rfl⟩, ⟨rfl, rfl⟩, by decide, by decide⟩, next_with (by decide +kernel)⟩

theorem witness_DisplayControlResult :
    (NoIoFaults ready ∧ Ready ready ∧ ReceiverIdle ready) ∧
    (∀ x ∈ ([(0x8000, 0), (0xFFFF, 0), (0, 0), (7, 7), (8, 7), (0x7FFF, 7)] : List (Half × BitVec 3)),
      ((x.2.toNat : Int) = min (max x.1.toInt 0) 7)) ∧
    (NoIoFaults readyLost ∧ Ready readyLost ∧ readyLost.rx.phase = .lost ∧ readyLost.clk = some true) :=
  ⟨⟨rfl, ⟨rfl, rfl⟩, rfl, rfl⟩, by simp [BitVec.toInt], rfl, ⟨rfl, rfl⟩, rfl, rfl⟩

theorem witness_MergeRowResult : (0 : Byte).toNat ≤ 8 ∧ (8 : Byte).toNat ≤ 8 ∧ 8 < (9 : Byte).toNat ∧ 8 < (255 : Byte).toNat := by
  decide

theorem witness_PackFrameResult :
    ((8 : Byte).toNat ≤ 8 ∧ (∃ g, lookupGlyph power.cfg 0x41 = some g) ∧ ∃ g, lookupGlyph power.cfg 0x42 = some g) ∧
    ((0 : Byte).toNat ≤ 8 ∧ lookupGlyph power.cfg 0x43 = none) ∧ 8 < (9 : Byte).toNat :=
  ⟨⟨by decide, ⟨_, rfl⟩, ⟨_, rfl⟩⟩, ⟨by decide, rfl⟩, by decide⟩

theorem witness_ScrollStartResult : Ready ready := ⟨rfl, rfl⟩

theorem scrolling_hypotheses (off : Fin 8) :
    NoIoFaults (scrolling [0x41, 0x42] off) ∧ Ready (scrolling [0x41, 0x42] off) ∧
    (scrolling [0x41, 0x42] off).rStatus = .running ∧
    (scrolling [0x41, 0x42] off).rMsg[(scrolling [0x41, 0x42] off).rPair]? = some 0x41 ∧
    (scrolling [0x41, 0x42] off).rMsg[(scrolling [0x41, 0x42] off).rPair + 1]? = some 0x42 ∧
    (∃ g, lookupGlyph (scrolling [0x41, 0x42] off).cfg 0x41 = some g) ∧
    (∃ g, lookupGlyph (scrolling [0x41, 0x42] off).cfg 0x42 = some g) ∧ ReceiverIdle (scrolling [0x41, 0x42] off) :=
  ⟨rfl, ⟨rfl, rfl⟩, rfl, rfl, rfl, ⟨_, rfl⟩, ⟨_, rfl⟩, rfl, rfl⟩

/-- The first and the last frame of a pair, and a lost receiver. -/
theorem witness_ScrollStepSendsNextFrame :
    (scrolling [0x41, 0x42] 0).rSent = 0 ∧ 0 < (scrolling [0x41, 0x42] 7).rSent ∧
    NoIoFaults (scrolling [0x41, 0x42] 7) ∧ Ready (scrolling [0x41, 0x42] 7) ∧
    (scrolling [0x41, 0x42] 7).rMsg[0]? = some 0x41 ∧ (scrolling [0x41, 0x42] 7).rMsg[1]? = some 0x42 ∧
    ReceiverIdle (scrolling [0x41, 0x42] 7) ∧ 8 ≤ (scrolling [0x41, 0x42] 7).cfg.addrCount ∧
    readyLost.rx.phase = .lost ∧ readyLost.clk = some true ∧ readyLost.rx.mode = none :=
  ⟨rfl, by decide, rfl, ⟨rfl, rfl⟩, rfl, rfl, ⟨rfl, rfl⟩, by decide, rfl, rfl, rfl⟩

theorem witness_ScrollStepSendsNothing :
    (Ready ready ∧ ready.rStatus = .idle) ∧
    (Ready (scrolling [0x41, 0x43] 0) ∧ (scrolling [0x41, 0x43] 0).rMsg[0]? = some 0x41 ∧
      (scrolling [0x41, 0x43] 0).rMsg[1]? = some 0x43 ∧ lookupGlyph (scrolling [0x41, 0x43] 0).cfg 0x43 = none) ∧
    Ready { ready with rStatus := .faulted, rErr := some .missingGlyph } :=
  ⟨⟨⟨rfl, rfl⟩, rfl⟩, ⟨⟨rfl, rfl⟩, rfl, rfl, rfl⟩, rfl, rfl⟩

/-- The empty message, one character, and two. -/
theorem witness_ScrollSendsEveryFrame :
    NoIoFaults ready ∧ Ready ready ∧ LinesHigh ready ∧ ReceiverIdle ready ∧ 8 ≤ ready.cfg.addrCount ∧
    ∀ msg ∈ ([[], [0x43], [0x41, 0x42]] : List (List Byte)),
      2 ≤ msg.length → ∀ c ∈ msg, lookupGlyph ready.cfg c ≠ none :=
  ⟨rfl, ⟨rfl, rfl⟩, ⟨rfl, rfl⟩, ⟨rfl, rfl⟩, by decide, by decide +kernel⟩

/-- The missing character at pair 0 in either place, and at pair 1 as in V-SC4. -/
theorem witness_ScrollStopsAtMissingGlyph :
    NoIoFaults ready ∧ Ready ready ∧
    ∀ x ∈ ([([0x43, 0x41], 0), ([0x41, 0x43], 0), ([0x41, 0x42, 0x43], 1)] : List (List Byte × Nat)),
      x.2 + 1 < x.1.length ∧ (∀ k < x.2, lookupGlyph ready.cfg (x.1.getD k 0) ≠ none) ∧
      (0 < x.2 → lookupGlyph ready.cfg (x.1.getD x.2 0) ≠ none) ∧
      (lookupGlyph ready.cfg (x.1.getD x.2 0) = none ∨ lookupGlyph ready.cfg (x.1.getD (x.2 + 1) 0) = none) :=
  ⟨rfl, ⟨rfl, rfl⟩, by decide +kernel⟩

theorem witness_ScrollCounts :
    NoIoFaults ready ∧ Ready ready ∧ (∀ c ∈ ([0x41, 0x42] : List Byte), lookupGlyph ready.cfg c ≠ none) ∧
    ∃ t, exec (.scroll [0x41, 0x42] 50) ready = .next t ∧ decide (t.rSent = 8) = true :=
  ⟨rfl, ⟨rfl, rfl⟩, by decide +kernel, next_with (by decide +kernel)⟩

theorem witness_ScrollIsStartThenSteps :
    NoIoFaults ready ∧ Ready ready ∧ ∀ c ∈ ([0x41, 0x42] : List Byte), lookupGlyph ready.cfg c ≠ none :=
  ⟨rfl, ⟨rfl, rfl⟩, by decide +kernel⟩

theorem witness_ReservedOpcodesAreRefused : Instr.reservedE 0xFFFFFFF = .reservedE 0xFFFFFFF := rfl

theorem witness_WireCommandResult :
    (NoIoFaults ready ∧ ReceiverIdle ready) ∧ (∃ a l, Instr.dispCtrl true 7 = .dispCtrl a l ∧ (0x8F : Byte) = displayByte l a) ∧
    (NoIoFaults readyLost ∧ readyLost.rx.phase = .lost ∧ readyLost.clk = some true) :=
  ⟨⟨rfl, rfl, rfl⟩, ⟨true, 7, rfl, by decide⟩, rfl, rfl, rfl⟩

theorem witness_WireByteResult :
    (NoIoFaults ready ∧ ReceiverIdle ready) ∧ (∃ o : BitVec 4, Instr.addr 15 = .addr o ∧ (0xCF : Byte).toNat = 0xC0 + o.toNat) ∧
    (NoIoFaults readyOpen ∧ readyOpen.rx.phase = .txB ∧ readyOpen.rx.nbits = 0 ∧ readyOpen.rx.acc = 0) ∧
    readyLost.rx.phase = .lost :=
  ⟨⟨rfl, rfl, rfl⟩, ⟨15, rfl, by decide⟩, ⟨rfl, rfl, rfl, rfl⟩, rfl⟩

theorem witness_FrameWriteIsItsWireProgram :
    NoIoFaults ready ∧ Ready ready ∧
    ({ ready with input := [.wire (.first 0x40), .wire (.first 0xC0), .wire (.later 1), .wire .stop] }).input =
      .wire (.first 0x40) :: .wire (.first 0xC0) :: ((([1] : List Byte).map fun b => .wire (.later b)) ++ .wire .stop :: []) ∧
    ∃ u, exec (.sendFrame [1]) ready = .next u := ⟨rfl, ⟨rfl, rfl⟩, rfl, answers (by decide +kernel)⟩

theorem witness_NotInitializedIsRefused : usesPrecheck .clear = true ∧ power.initDone = false := ⟨rfl, rfl⟩

theorem witness_CorruptedDriverRefuses :
    usesPrecheck .clear = true ∧ corruptedReady.initDone = true ∧ corruptedReady.corrupted = true := ⟨rfl, rfl, rfl⟩

theorem eq_take_cons_drop {es : List Event} {k : Nat} {e : Event} (h : es[k]? = some e) :
    es = es.take k ++ e :: es.drop (k + 1) := by
  obtain ⟨hk, rfl⟩ := List.getElem?_eq_some_iff.1 h
  rw [← List.drop_eq_getElem_cons hk, List.take_append_drop]

/-- The events of `scroll "ABC", 50`, a message whose last glyph is missing. -/
def scrollABC : List Event := requestEvents (faulty []) (.scroll [0x41, 0x42, 0x43] 50)

/-- In a `SCROLL`: the first pin write, the last of the first frame, the first of the second frame, after its delay. -/
theorem witness_FailedPinWriteAborts_scroll :
    usesPrecheck (.scroll [0x41, 0x42, 0x43] 50) = true ∧ leadingPairs (faulty []).cfg [0x41, 0x42, 0x43] = 1 ∧
    (scrollABC = scrollABC.take 0 ++ .setDat false :: scrollABC.drop 1 ∧ pinWrites (scrollABC.take 0) = 0) ∧
    (scrollABC = scrollABC.take 249 ++ .setDat true :: scrollABC.drop 250 ∧ pinWrites (scrollABC.take 249) = 249) ∧
    (scrollABC = scrollABC.take 251 ++ .setDat false :: scrollABC.drop 252 ∧ pinWrites (scrollABC.take 251) = 250) :=
  ⟨rfl, by decide +kernel, ⟨eq_take_cons_drop (by decide +kernel), by decide +kernel⟩,
    ⟨eq_take_cons_drop (by decide +kernel), by decide +kernel⟩, eq_take_cons_drop (by decide +kernel), by decide +kernel⟩

/-- The first pin write of `INIT`, the tenth of `CLEAR` as in P5, and the last of a command. -/
theorem witness_FailedPinWriteAborts :
    (requestEvents (faulty [true]) (.init true 7) =
        [] ++ .setClk false :: (requestEvents (faulty [true]) (.init true 7)).drop 1 ∧
      (faulty [true]).pinDraws = List.replicate (pinWrites []) false ++ true :: []) ∧
    (usesPrecheck .clear = true ∧ Ready (faulty (List.replicate 9 false ++ [true])) ∧
      requestEvents (faulty []) .clear = (requestEvents (faulty []) .clear).take 9 ++
        .setClk true :: (requestEvents (faulty []) .clear).drop 10 ∧
      pinWrites ((requestEvents (faulty []) .clear).take 9) = 9) ∧
    (requestEvents (faulty []) (.setActive true) =
        (requestEvents (faulty []) (.setActive true)).take 28 ++ .setDat true :: [] ∧
      (faulty []).cfg.ioFaults = true) ∧
    drivenLine (.setClk true) = some .clk ∧ drivenLine (.setDat true) = some .dio := by
  refine ⟨⟨by decide +kernel, by decide +kernel⟩, ⟨rfl, ⟨rfl, rfl⟩, by decide +kernel, by decide +kernel⟩,
    ⟨by decide +kernel, rfl⟩, rfl, rfl⟩

theorem witness_PassingDrawsChangeNothing :
    (faulty (List.replicate 29 false ++ [true])).cfg.ioFaults = true ∧
    (∃ t, exec (.sendCommand 0x8F) { faulty (List.replicate 29 false ++ [true]) with
        cfg := { (faulty (List.replicate 29 false ++ [true])).cfg with ioFaults := false } } = .next t ∧
      decide (29 = pinWrites (t.trace.drop 0)) = true) ∧
    (faulty (List.replicate 29 false ++ [true])).trace.length = 0 ∧
    (faulty (List.replicate 29 false ++ [true])).pinDraws = List.replicate 29 false ++ [true] :=
  ⟨rfl, next_with (by decide +kernel), rfl, rfl⟩

theorem witness_LostReceiverResynchronises :
    Receiver.powerUp.phase = .lost ∧ (Event.setDat true = .setDat true ∧ some true = some true) ∧
    ¬ (Event.setDat true = .setDat true ∧ (none : Option Bool) = some true) := ⟨rfl, ⟨rfl, rfl⟩, by decide⟩

theorem witness_IdleReceiverAwaitsStart : ready.rx.phase = .idle ∧ (some false : Option Bool) ≠ some true := ⟨rfl, by decide⟩

/-- With a transaction that is marked, and one that is not. -/
theorem witness_TransactionIsReceivedWhole : ReceiverIdle ready ∧
    (rxApply ready.cfg.addrCount [] ready.rx).2 = true ∧ (rxApply ready.cfg.addrCount [0x40] ready.rx).2 = false :=
  ⟨⟨rfl, rfl⟩, rfl, by decide +kernel⟩

theorem witness_ByteIsSentLeastSignificantBitFirst : 0 < 8 ∧ 7 < 8 := by decide

/-- The last offset in either mode, and one byte too many. -/
theorem witness_AddressedWriteEffect :
    ((0xCF : Byte).toNat / 16 = 12 ∧ (0xCF : Byte).toNat % 16 < 16) ∧
    ((0xC0 : Byte).toNat / 16 = 12 ∧ (0xC0 : Byte).toNat % 16 + (15 + 1) ≤ 16) ∧
    ¬ ((0xC1 : Byte).toNat % 16 + (15 + 1) ≤ 16) ∧ (0xD0 : Byte).toNat / 16 ≠ 12 := by decide

theorem witness_PanelShowsController :
    ({ Receiver.powerUp with disp := some (7, true) }).disp = some (7, true) ∧
    ({ Receiver.powerUp with disp := some (0, false) }).disp = some (0, false) ∧ Receiver.powerUp.disp = none := ⟨rfl, rfl, rfl⟩

theorem witness_MergeInterleavesColumns : 0 ≤ 8 ∧ 8 ≤ 8 := by decide

theorem witness_LookupAdaptsGlyph :
    (∃ g, power.cfg.font.lookup 0x41 = some g) ∧ power.cfg.font.lookup 0x43 = none := ⟨⟨_, rfl⟩, rfl⟩

end Sys2Proof.Tests
end

