-- ==== Sys2Proof/Proofs/Receiver.lean ====
section
/-! The reference receiver, event by event and command by command: what it does at each event while lost and while idle, what a
failed pin write does, what one-byte and addressed transactions make of the controller, and what the panel then shows
(R63, R64, R67 to R75). -/

namespace Sys2Proof.Machine

/-! ### The fields of a command byte -/

/-- The model's high nibble of a byte, as the number the rules speak of. -/
theorem highNibble_eq_iff (c : Byte) (k : BitVec 4) : c.extractLsb' 4 4 = k ↔ c.toNat / 16 = k.toNat := by
  rw [← BitVec.toNat_inj, BitVec.extractLsb'_toNat, Nat.shiftRight_eq_div_pow]
  have hc := c.isLt
  omega

/-- The address field of an address command. -/
theorem lowNibble_toNat (c : Byte) : (c.extractLsb' 0 4).toNat = c.toNat % 16 := by
  rw [BitVec.extractLsb'_toNat, Nat.shiftRight_zero]

/-- The intensity field of a display command. -/
theorem lowThreeBits_eq (c : Byte) : c.extractLsb' 0 3 = BitVec.ofNat 3 (c.toNat % 8) := by
  apply BitVec.eq_of_toNat_eq
  rw [BitVec.extractLsb'_toNat, Nat.shiftRight_zero, BitVec.toNat_ofNat, Nat.mod_mod]

/-! ### One event, by phase -/

theorem rxEvent_of_lost (n : Nat) (clk dio : Option Bool) (e : Event) {r : Receiver} (h : r.phase = .lost) :
    rxEvent n clk dio e r = rxInLost clk e r := by
  simp only [rxEvent, h]

theorem rxEvent_of_idle (n : Nat) (clk dio : Option Bool) (e : Event) {r : Receiver} (h : r.phase = .idle) :
    rxEvent n clk dio e r = rxInIdle clk e r := by
  simp only [rxEvent, h]

/-- The one event that brings a lost receiver back (R63). -/
theorem rxInLost_resync (r : Receiver) : rxInLost (some true) (.setDat true) r = ({ r with phase := .idle }, false) := rfl

/-- Every other event leaves a lost receiver as it is, a failed pin write included (R63, R75). -/
theorem rxInLost_of_not_resync {clk : Option Bool} {e : Event} (h : ¬ (e = .setDat true ∧ clk = some true)) (r : Receiver) :
    rxInLost clk e r = (r, false) := by
  cases e with
  | setDat b =>
    cases b with
    | true =>
      have hclk : clk ≠ some true := fun hc => h ⟨rfl, hc⟩
      simp only [rxInLost, if_neg hclk]
    | false => rfl
  | setClk b => rfl
  | sleep ms => rfl
  | ioFail l => rfl

/-- In every phase but `LOST` a failed pin write is an `rx_error` (R75). -/
theorem rxEvent_ioFail_of_ne_lost (n : Nat) (clk dio : Option Bool) (l : Line) {r : Receiver} (h : r.phase ≠ .lost) :
    rxEvent n clk dio (.ioFail l) r = (rxError r, true) := by
  unfold rxEvent
  cases hp : r.phase with
  | lost => exact absurd hp h
  | idle => rfl
  | txB => rfl
  | txL => rfl
  | txT1 => rfl
  | txT2 => rfl
  | txT3 => rfl

/-! ### A transaction's effect -/

/-- When an address command `c` with data `d` takes effect in an address mode: one byte in fixed mode, a run of bytes in
auto-increment mode, and no offset outside `0..n-1` (R70, R71). -/
def AddressedWriteFits (n : Nat) (c : Byte) (d : List Byte) (mode : Option AddrMode) : Prop :=
  c.toNat / 16 = 12 ∧
    (mode = some .fixed ∧ d.length = 1 ∧ c.toNat % 16 < n ∨ mode = some .auto ∧ c.toNat % 16 + d.length ≤ n)

theorem rxWrite_of_fits {n : Nat} {c : Byte} {d : List Byte} {r : Receiver} (h : AddressedWriteFits n c d r.mode) :
    rxWrite n c d r = ({ r with ram := Memory.writeList (c.toNat % 16) d r.ram }, false) := by
  obtain ⟨hclass, hmode⟩ := h
  have hc : c.extractLsb' 4 4 = 0xC := (highNibble_eq_iff c 0xC).2 hclass
  simp only [rxWrite, lowNibble_toNat, if_pos hc]
  rcases hmode with ⟨hfixed, hrange⟩ | ⟨hauto, hrange⟩
  · simp only [hfixed, if_pos hrange]
  · simp only [hauto, if_pos hrange]

theorem rxWrite_of_not_fits {n : Nat} {c : Byte} {d : List Byte} {r : Receiver} (h : ¬ AddressedWriteFits n c d r.mode) :
    rxWrite n c d r = (rxHavoc r, true) := by
  simp only [rxWrite, lowNibble_toNat]
  by_cases hc : c.extractLsb' 4 4 = 0xC
  · have hclass : c.toNat / 16 = 12 := (highNibble_eq_iff c 0xC).1 hc
    rw [if_pos hc]
    cases hm : r.mode with
    | none => rfl
    | some mode =>
      cases mode with
      | fixed => exact if_neg fun hrange => h ⟨hclass, .inl ⟨hm, hrange⟩⟩
      | auto => exact if_neg fun hrange => h ⟨hclass, .inr ⟨hm, hrange⟩⟩
  · exact if_neg hc

/-- An addressed write sets the offsets it covers to the data, and keeps the others (R70, R71). -/
theorem read_rxWrite_of_fits {n : Nat} {c : Byte} {d : List Byte} {r : Receiver} (h : AddressedWriteFits n c d r.mode)
    (k : Nat) :
    Memory.read (rxWrite n c d r).1.ram k =
      if c.toNat % 16 ≤ k ∧ k < c.toNat % 16 + d.length then d[k - c.toNat % 16]? else Memory.read r.ram k := by
  rw [rxWrite_of_fits h]
  exact Memory.read_writeList _ _ _ _

/-- A one-byte transaction by the number its high nibble holds (R68, R69, R72). -/
theorem rxCommand_eq (c : Byte) (r : Receiver) :
    rxCommand c r =
      if c = 0x40 then ({ r with mode := some .auto }, false)
      else if c = 0x44 then ({ r with mode := some .fixed }, false)
      else if c.toNat / 16 = 8 then ({ r with disp := some (BitVec.ofNat 3 (c.toNat % 8), c.getLsbD 3) }, false)
      else (rxHavoc r, true) := by
  have hclass : c.extractLsb' 4 4 = 0x8 ↔ c.toNat / 16 = 8 := highNibble_eq_iff c 0x8
  simp only [rxCommand, hclass, lowThreeBits_eq]

/-! ### The obligations -/

/-- Settles O49, by the one event that resynchronises and all the others. -/
theorem lostReceiverResynchronises : Obligations.LostReceiverResynchronises := by
  intro n clk dio e r hlost
  rw [rxEvent_of_lost n clk dio e hlost]
  constructor
  · rintro ⟨rfl, rfl⟩
    exact rxInLost_resync r
  · intro h
    exact rxInLost_of_not_resync h r

/-- Settles O50: the only event with two outcomes is a data fall, a start cue if the clock is high and an error if not. -/
theorem idleReceiverAwaitsStart : Obligations.IdleReceiverAwaitsStart := by
  intro n clk dio r hidle
  simp only [rxEvent_of_idle n clk dio _ hidle]
  refine ⟨fun b => rfl, rfl, ?_, ?_, fun ms => rfl, fun l => rfl⟩
  · intro hhigh
    exact if_pos hhigh
  · intro hnot
    exact if_neg hnot

/-- Settles O53, by whether the receiver is lost already. -/
theorem failedWriteLosesReceiver : Obligations.FailedWriteLosesReceiver := by
  intro n clk dio l r
  by_cases hlost : r.phase = .lost
  · rw [if_pos hlost, rxEvent_of_lost n clk dio _ hlost]
    exact rxInLost_of_not_resync (by simp) r
  · rw [if_neg hlost]
    exact rxEvent_ioFail_of_ne_lost n clk dio l hlost

/-- Settles O54: a transaction of one byte is a command. -/
theorem oneByteTransactionEffect : Obligations.OneByteTransactionEffect := by
  intro n c r
  exact rxCommand_eq c r

/-- Settles O55: a transaction of more bytes is an addressed write, which takes effect exactly if it fits. -/
theorem addressedWriteEffect : Obligations.AddressedWriteEffect := by
  intro n c d ds r a fits
  have hfits : fits ↔ AddressedWriteFits n c (d :: ds) r.mode := by
    simp [fits, a, AddressedWriteFits]
  rw [hfits, show rxApply n (c :: d :: ds) r = rxWrite n c (d :: ds) r from rfl]
  constructor
  · intro h
    exact ⟨by rw [rxWrite_of_fits h], by rw [rxWrite_of_fits h], by rw [rxWrite_of_fits h], read_rxWrite_of_fits h⟩
  · intro h
    exact rxWrite_of_not_fits h

/-- Settles O57, by the display-control register: known and active, known and inactive, unknown. -/
theorem panelShowsController : Obligations.PanelShowsController := by
  intro r k
  refine ⟨?lit, ?dark, ?unknown⟩
  case lit =>
    intro i h
    simp only [panelShows, h]
  case dark =>
    intro i h
    simp only [panelShows, h]
  case unknown =>
    intro h
    simp only [panelShows, h]

end Sys2Proof.Machine
end

