-- ==== Sys2Proof/Proofs/Encoding.lean ====
section
/-! The command bytes as numbers: the address byte keeps the low six bits of its operand and has both top bits set, so an
operand above 63 loses its own top bits (R106). -/

namespace Sys2Proof.Machine

/-! ### The address byte -/

/-- Two set bits absorb any two-bit number. -/
theorem three_or_of_lt_four {n : Nat} (h : n < 4) : 3 ||| n = 3 := by
  interval_cases n <;> rfl

/-- The two top bits are set whatever the operand. -/
theorem addrByte_div_two_pow_six (a : Byte) : (addrByte a).toNat / 2 ^ 6 = 3 := by
  have htop : a.toNat / 2 ^ 6 < 4 := Nat.div_lt_of_lt_mul a.isLt
  calc (addrByte a).toNat / 2 ^ 6
      = 0xC0 / 2 ^ 6 ||| a.toNat / 2 ^ 6 := by rw [addrByte, BitVec.toNat_or, Nat.or_div_two_pow]; rfl
    _ = 3 := three_or_of_lt_four htop

/-- The six low bits are the operand's. -/
theorem addrByte_mod_two_pow_six (a : Byte) : (addrByte a).toNat % 2 ^ 6 = a.toNat % 2 ^ 6 := by
  calc (addrByte a).toNat % 2 ^ 6
      = 0xC0 % 2 ^ 6 ||| a.toNat % 2 ^ 6 := by rw [addrByte, BitVec.toNat_or, Nat.or_mod_two_pow]; rfl
    _ = a.toNat % 2 ^ 6 := Nat.zero_or _

/-- R106 as a number, for every operand. -/
theorem addrByte_toNat (a : Byte) : (addrByte a).toNat = 0xC0 + a.toNat % 64 := by
  have hdiv := addrByte_div_two_pow_six a
  have hmod := addrByte_mod_two_pow_six a
  omega

/-- An operand of six bits is kept whole. -/
theorem addrByte_toNat_of_le {a : Byte} (h : a.toNat ≤ 63) : (addrByte a).toNat = 0xC0 + a.toNat := by
  rw [addrByte_toNat, Nat.mod_eq_of_lt (Nat.lt_succ_of_le h)]

/-! ### The obligation -/

/-- Settles O27, by the operand's range: an offset, six bits but no offset, more than six bits. -/
theorem addressByteByRange : Obligations.AddressByteByRange := by
  intro a
  refine ⟨?offset, ?sixBits, ?topBitsLost⟩
  case offset =>
    intro hle
    exact addrByte_toNat_of_le (hle.trans (by decide))
  case sixBits =>
    rintro ⟨hlow, hhigh⟩
    have hbyte := addrByte_toNat_of_le hhigh
    exact ⟨hbyte, by omega⟩
  case topBitsLost =>
    intro _
    exact addrByte_toNat a

end Sys2Proof.Machine
end

