-- ==== Sys2Proof/Proofs/Transmission.lean ====
section
/-! What `tx_byte` sends: bit slots in the order of the byte's bits, and any one of them standing behind the slots of the lower
bits, so that its level is on the data line when its clock edge rises (R91, R140). -/

namespace Sys2Proof.Machine

/-! ### The bits of `tx_byte` -/

@[simp] theorem bitSlot_length (v : Bool) : (bitSlot v).length = 3 := rfl

theorem txBits_zero (b : Byte) : txBits 0 b = [] := rfl

theorem txBits_succ (n : Nat) (b : Byte) :
    txBits (n + 1) b = bitSlot (b.getLsbD 0) ++ txBits n (b >>> 1) := rfl

@[simp] theorem txBits_length (n : Nat) (b : Byte) : (txBits n b).length = 3 * n := by
  induction n generalizing b with
  | zero => rfl
  | succ n ih => rw [txBits_succ, List.length_append, bitSlot_length, ih]; omega

/-- Shifting right before each slot sends the bits of the byte in order (R33, R140). -/
theorem txBits_eq_flatMap (n : Nat) (b : Byte) :
    txBits n b = (List.range n).flatMap fun k => bitSlot (b.getLsbD k) := by
  induction n generalizing b with
  | zero => rfl
  | succ n ih =>
    rw [txBits_succ, ih, List.range_succ_eq_map, List.flatMap_cons, List.flatMap_map]
    simp only [BitVec.getLsbD_ushiftRight, Nat.add_comm 1]

/-- Sending `k + m` bits is sending `k` of them, then `m` of the byte shifted so far. -/
theorem txBits_add (k m : Nat) (b : Byte) : txBits (k + m) b = txBits k b ++ txBits m (b >>> k) := by
  induction k generalizing b with
  | zero => simp [txBits_zero]
  | succ k ih =>
    rw [Nat.add_right_comm, txBits_succ, txBits_succ, ih, List.append_assoc, ← BitVec.shiftRight_add, Nat.add_comm 1]

/-- Bit `k`'s slot stands behind the slots of the bits below it. -/
theorem txByte_eq_append_bitSlot (b : Byte) {k : Nat} (hk : k < 8) :
    ∃ rest, txByte b = txBits k b ++ (bitSlot (b.getLsbD k) ++ rest) := by
  obtain ⟨m, hm⟩ : ∃ m, k + (m + 1) = 8 := ⟨7 - k, by omega⟩
  have hsplit := txBits_add k (m + 1) b
  rw [hm, txBits_succ m, BitVec.getLsbD_ushiftRight, Nat.add_zero] at hsplit
  exact ⟨_, hsplit⟩

/-! ### One bit slot of `tx_byte` -/

/-- The three events of bit `k`. -/
theorem txByte_getElem?_slot (b : Byte) {k i : Nat} (hk : k < 8) (hi : i < 3) :
    (txByte b)[3 * k + i]? = (bitSlot (b.getLsbD k))[i]? := by
  obtain ⟨rest, hbyte⟩ := txByte_eq_append_bitSlot b hk
  rw [hbyte, List.getElem?_append_right (by simp), txBits_length, Nat.add_sub_cancel_left,
    List.getElem?_append_left (by simpa using hi)]

/-- Up to bit `k`'s rising edge, the last event is the write of that bit. -/
theorem txByte_take_before_rise (b : Byte) {k : Nat} (hk : k < 8) :
    (txByte b).take (3 * k + 2) = txBits k b ++ [.setClk false, .setDat (b.getLsbD k)] := by
  obtain ⟨rest, hbyte⟩ := txByte_eq_append_bitSlot b hk
  rw [hbyte, ← txBits_length k b, List.take_length_add_append]
  rfl

/-- Bit `k` is on the data line immediately before its rising edge (R140). -/
theorem emitAll_txByte_before_rise_dio (b : Byte) (s : State) {k : Nat} (hk : k < 8) :
    (emitAll ((txByte b).take (3 * k + 2)) s).dio = some (b.getLsbD k) := by
  rw [txByte_take_before_rise b hk, emitAll_append]
  rfl

/-! ### The obligation -/

/-- Settles O52: the bits in order, then the slot of each bit, then the levels the last slot leaves. -/
theorem byteIsSentLeastSignificantBitFirst : Obligations.ByteIsSentLeastSignificantBitFirst := by
  intro b s
  refine ⟨txBits_eq_flatMap 8 b, txByte_length b, ?slots, emitAll_txByte_levels b s⟩
  case slots =>
    intro k hk
    have clockLow := txByte_getElem?_slot b hk (i := 0) (by decide)
    have dataBit := txByte_getElem?_slot b hk (i := 1) (by decide)
    have clockHigh := txByte_getElem?_slot b hk (i := 2) (by decide)
    exact ⟨clockLow, dataBit, clockHigh, emitAll_txByte_before_rise_dio b s hk⟩

end Sys2Proof.Machine
end

