-- ==== Sys2Proof/Proofs/ScrollRenderer.lean ====
section
/-! The pure functions of the scroll renderer, bit by bit: the column interleaver (R180, R191) and the glyph lookup that
brings a font to the block's convention (R181). -/

namespace Sys2Proof.Machine

open Stated

/-! ### The column interleaver -/

/-- The naturals under the truncation: column `j` takes what either shift puts there. -/
theorem merge_getLsbD (c1 c2 : Byte) (offset : Nat) {j : Nat} (hj : j < 8) :
    (merge c1 c2 offset).getLsbD j =
      (c1.getLsbD (j + offset) || decide (8 - offset ≤ j) && c2.getLsbD (j - (8 - offset))) := by
  simp only [merge, BitVec.getLsbD_ofNat, hj, Nat.testBit_or, Nat.testBit_shiftRight, Nat.testBit_shiftLeft,
    BitVec.testBit_toNat, decide_true, Bool.true_and, ge_iff_le, Nat.add_comm offset]

/-- The two shifts share no column: `c1` has run out where `c2` begins (R180). -/
theorem mergedRow_merge (c1 c2 : Byte) (offset : Nat) : mergedRow c1 c2 offset (merge c1 c2 offset) := by
  intro j hj
  rw [merge_getLsbD c1 c2 offset hj]
  split
  case isTrue left => simp [Nat.not_le.2 left]
  case isFalse right =>
    have c1_ended : c1.getLsbD (j + offset) = false := BitVec.getLsbD_of_ge _ _ (by omega)
    simp [c1_ended, Nat.not_lt.1 right]

/-- A row merged at offset 0 shows `c1` in all eight columns. -/
theorem eq_left_of_mergedRow {c1 c2 m : Byte} (h : mergedRow c1 c2 0 m) : m = c1 :=
  BitVec.eq_of_getLsbD_eq fun j hj => (h j hj).trans (if_pos hj)

/-- A row merged at offset 8 shows `c2` in all eight columns. -/
theorem eq_right_of_mergedRow {c1 c2 m : Byte} (h : mergedRow c1 c2 8 m) : m = c2 :=
  BitVec.eq_of_getLsbD_eq fun j hj => (h j hj).trans (if_neg (Nat.not_lt_zero j))

/-- Settles O58: the interleaver's bits, and the endpoints they give. -/
theorem mergeInterleavesColumns : Obligations.MergeInterleavesColumns := fun c1 c2 offset _ =>
  ⟨mergedRow_merge c1 c2 offset, eq_left_of_mergedRow (mergedRow_merge c1 c2 0), eq_right_of_mergedRow (mergedRow_merge c1 c2 8)⟩

/-! ### Reversed fonts -/

theorem rev8_getLsbD (b : Byte) {j : Nat} (hj : j < 8) : (rev8 b).getLsbD j = b.getLsbD (7 - j) := by
  -- The rules of `++` see the width only as the sum it is built from.
  have width_as_sum : (rev8 b).getLsbD j = BitVec.getLsbD (w := 1 + 1 + 1 + 1 + 1 + 1 + 1 + 1) (rev8 b) j := rfl
  rw [width_as_sum, rev8]
  simp only [BitVec.getLsbD_append, BitVec.getLsbD_extractLsb']
  interval_cases j <;> simp

@[simp] theorem glyphRows_length (g : Glyph) : (glyphRows g).length = 8 := rfl

theorem glyphRows_reverseRows (g : Glyph) : glyphRows (reverseRows g) = (glyphRows g).reverse := rfl

theorem glyphRows_reverseBits (g : Glyph) : glyphRows (reverseBits g) = (glyphRows g).map rev8 := rfl

theorem reverseRows_getD (g : Glyph) {r : Nat} (hr : r < 8) :
    (glyphRows (reverseRows g)).getD r 0 = (glyphRows g).getD (7 - r) 0 := by
  rw [glyphRows_reverseRows, List.getD_reverse r (by simpa using hr), glyphRows_length, Nat.sub_right_comm]

theorem reverseBits_getLsbD (g : Glyph) (r : Nat) {j : Nat} (hj : j < 8) :
    ((glyphRows (reverseBits g)).getD r 0).getLsbD j = ((glyphRows g).getD r 0).getLsbD (7 - j) := by
  have rev8_zero : rev8 0 = 0 := rfl
  rw [glyphRows_reverseBits, ← rev8_zero, List.getD_map, rev8_zero, rev8_getLsbD _ hj]

/-- The adapted glyph bit by bit: each reversal acts on its own coordinate. -/
theorem adaptGlyph_getLsbD (cfg : Config) (g : Glyph) {r j : Nat} (hr : r < 8) (hj : j < 8) :
    ((glyphRows (adaptGlyph cfg g)).getD r 0).getLsbD j =
      ((glyphRows g).getD (if cfg.fontRowsReversed then 7 - r else r) 0).getLsbD
        (if cfg.fontBitsReversed then 7 - j else j) := by
  have rows : (glyphRows (if cfg.fontRowsReversed then reverseRows g else g)).getD r 0 =
      (glyphRows g).getD (if cfg.fontRowsReversed then 7 - r else r) 0 := by
    by_cases reversed : cfg.fontRowsReversed
    · rw [if_pos reversed, if_pos reversed, reverseRows_getD g hr]
    · rw [if_neg reversed, if_neg reversed]
  rw [← rows, adaptGlyph]
  by_cases reversed : cfg.fontBitsReversed
  · rw [if_pos reversed, if_pos reversed, reverseBits_getLsbD _ r hj]
  · rw [if_neg reversed, if_neg reversed]

/-! ### The lookup -/

theorem lookupGlyph_of_some {cfg : Config} {c : Byte} {g : Glyph} (h : cfg.font.lookup c = some g) :
    lookupGlyph cfg c = some (adaptGlyph cfg g) := by
  simp [lookupGlyph, fontAt, h]

theorem lookupGlyph_of_none {cfg : Config} {c : Byte} (h : cfg.font.lookup c = none) :
    lookupGlyph cfg c = if cfg.missingGlyph = .blank then some blankGlyph else none := by
  cases policy : cfg.missingGlyph <;> simp [lookupGlyph, fontAt, h, policy]

/-- Settles O59: a glyph of the font is adapted bit by bit, a missing one goes by the policy. -/
theorem lookupAdaptsGlyph : Obligations.LookupAdaptsGlyph :=
  ⟨⟨rfl, rfl, rfl⟩, fun cfg _ =>
    ⟨fun g found => ⟨adaptGlyph cfg g, lookupGlyph_of_some found, fun _ hr _ hj => adaptGlyph_getLsbD cfg g hr hj⟩,
      lookupGlyph_of_none⟩⟩

end Sys2Proof.Machine
end

