-- ==== Sys2Proof/Proofs/Exceptions.lean ====
section
/-! The checks before a request (R215, R217, R221): which instructions run behind `precheck_driver`, and what a refusal leaves
in the state. -/

namespace Sys2Proof.Machine

open Stated

/-- An error ends a request with two writes and no event (R210, R211). -/
theorem raiseError_eq (e : ErrorKind) (s : State) :
    raiseError e s = { s with response := some ⟨e.status, []⟩, marks := s.marks ++ [⟨e.mark, s.reqIndex⟩] } := rfl

/-- An instruction with a precheck is a body, the same in every state, behind that check. -/
theorem exec_eq_withPrecheck {i : Instr} (h : usesPrecheck i = true) : ∃ body, ∀ s, exec i s = withPrecheck body s := by
  cases i with
  | sendByte | sendCommand | sendDataAt | sendFrame | clear | terminate | setBrightness | setActive | scrollStart
  | scrollStep | scroll => exact ⟨_, fun _ => rfl⟩
  | init | mergeRow | packFrame | reservedE | reservedF | dataAuto | dataFixed | dispCtrl | addr | data =>
    exact absurd h Bool.false_ne_true

/-- Before the first `INIT` completes no body runs, whatever `CORRUPTED` is (R217, R221). -/
theorem withPrecheck_notInitialized (body : State → Host.Outcome State Fault Refusal) {s : State}
    (hi : s.initDone = false) : withPrecheck body s = .next (raiseError .notInitialized s) := by
  obtain ⟨-, refused⟩ | ⟨done, -, -⟩ | ⟨done, -, -⟩ := withPrecheck_cases body s
  · exact refused
  · exact absurd (hi.symm.trans done) Bool.false_ne_true
  · exact absurd (hi.symm.trans done) Bool.false_ne_true

/-- Settles O45: the precheck answers for the body, with the error `NotInitialized`. -/
theorem notInitializedIsRefused : Obligations.NotInitializedIsRefused := by
  intro i s hprecheck hi
  obtain ⟨body, hexec⟩ := exec_eq_withPrecheck hprecheck
  calc exec i s = withPrecheck body s := hexec s
    _ = .next (raiseError .notInitialized s) := withPrecheck_notInitialized body hi
    _ = _ := congrArg _ (raiseError_eq .notInitialized s)

end Sys2Proof.Machine
end

/-! Power-up (R62, R240): nothing is known of the lines or of the controller, and the engine has done nothing. -/

namespace Sys2Proof.Machine

open Stated

/-- A receiver at power-up has an empty RAM, which reads unknown at every offset, and neither mode nor display (R62). -/
theorem controllerUnknown_of_powerUp {s : State} (h : s.rx = Receiver.powerUp) : ControllerUnknown s := by
  unfold ControllerUnknown
  rw [h]
  exact ⟨Memory.read_nil, rfl, rfl⟩

/-- The scroll unit's registers at power-up (R240). -/
theorem reset_sequencerCleared : SequencerCleared State.reset := ⟨rfl, rfl, rfl, rfl, rfl, rfl, rfl⟩

/-- Settles O9: the engine's registers as they stand in the reset state, the scroll unit cleared, the receiver lost and its
controller unknown. -/
theorem powerUpState : Obligations.PowerUpState :=
  ⟨rfl, rfl, rfl, rfl, rfl, reset_sequencerCleared, rfl, rfl, controllerUnknown_of_powerUp rfl⟩

end Sys2Proof.Machine

/-! The encoding of R100 to R103 and R112, in both directions: what the encoder writes is exactly what decodes, and both are
what the rules say of the fields of a word and its payload. -/

namespace Sys2Proof

open Machine.Stated

/-! ### The opcode of an instruction, and its mask and match -/

/-- The opcode of a request (R101); a wire byte has none. -/
def opcodeOf : Instr → Option (BitVec 4)
  | .init _ _ => some 0x0
  | .sendByte _ => some 0x1
  | .sendCommand _ => some 0x2
  | .sendDataAt _ _ => some 0x3
  | .sendFrame _ => some 0x4
  | .clear => some 0x5
  | .terminate => some 0x6
  | .setBrightness _ => some 0x7
  | .setActive _ => some 0x8
  | .mergeRow _ _ _ => some 0x9
  | .packFrame _ _ _ => some 0xA
  | .scrollStart _ _ => some 0xB
  | .scrollStep => some 0xC
  | .scroll _ _ => some 0xD
  | .reservedE _ => some 0xE
  | .reservedF _ => some 0xF
  | .dataAuto | .dataFixed | .dispCtrl _ _ | .addr _ | .data _ => none

/-- Every encoding meets its row of spec/opcode_table.json. -/
theorem encode_matches_row (i : Instr) : Laws.EncodeMatchesRow.Statement i := by
  cases i with
  | init active level => exact Laws.EncodeMatchesRow.init active level
  | sendByte b => exact Laws.EncodeMatchesRow.sendByte b
  | sendCommand c => exact Laws.EncodeMatchesRow.sendCommand c
  | sendDataAt a v => exact Laws.EncodeMatchesRow.sendDataAt a v
  | sendFrame bytes => exact Laws.EncodeMatchesRow.sendFrame bytes
  | clear => exact Laws.EncodeMatchesRow.clear
  | terminate => exact Laws.EncodeMatchesRow.terminate
  | setBrightness level => exact Laws.EncodeMatchesRow.setBrightness level
  | setActive on => exact Laws.EncodeMatchesRow.setActive on
  | mergeRow c1 c2 offset => exact Laws.EncodeMatchesRow.mergeRow c1 c2 offset
  | packFrame c1 c2 offset => exact Laws.EncodeMatchesRow.packFrame c1 c2 offset
  | scrollStart msg delay => exact Laws.EncodeMatchesRow.scrollStart msg delay
  | scrollStep => exact Laws.EncodeMatchesRow.scrollStep
  | scroll msg delay => exact Laws.EncodeMatchesRow.scroll msg delay
  | reservedE rest => exact Laws.EncodeMatchesRow.reservedE rest
  | reservedF rest => exact Laws.EncodeMatchesRow.reservedF rest
  | dataAuto => exact Laws.EncodeMatchesRow.dataAuto
  | dataFixed => exact Laws.EncodeMatchesRow.dataFixed
  | dispCtrl active intensity => exact Laws.EncodeMatchesRow.dispCtrl active intensity
  | addr offset => exact Laws.EncodeMatchesRow.addr offset
  | data b => exact Laws.EncodeMatchesRow.data b

/-- The mask and match that the decoder has for an opcode are those of the row. -/
theorem row_of_opcode {i : Instr} {op : BitVec 4} (hop : opcodeOf i = some op) :
    (Laws.rowOf i).mask = (requestMask op).toNat ∧ (Laws.rowOf i).pattern = (requestMatch op).toNat := by
  cases i <;> cases hop <;> exact ⟨rfl, rfl⟩

/-- An encoded request word passes the mask check of its opcode (R102). -/
theorem encode_masked {i : Instr} {op : BitVec 4} (hop : opcodeOf i = some op) {w : Word} {p : List Byte}
    (he : encode i = .request w p) : w &&& requestMask op = requestMatch op := by
  obtain ⟨hmask, hmatch⟩ := row_of_opcode hop
  have hrow := encode_matches_row i
  unfold Laws.EncodeMatchesRow.Statement at hrow
  rw [he, hmask, hmatch] at hrow
  apply BitVec.eq_of_toNat_eq
  rw [BitVec.toNat_and]
  exact hrow

/-! ### Decoding what was encoded -/

theorem opField_append (op : BitVec 4) (rest : BitVec 28) : opField (op ++ rest) = op := by
  apply BitVec.eq_of_getLsbD_eq
  intro i hi
  have hbit : (op ++ rest).getLsbD (28 + i) = op.getLsbD i := by
    refine BitVec.getLsbD_append.trans ?_
    simp
  simpa [opField, hi] using hbit

theorem restField_append (op : BitVec 4) (rest : BitVec 28) : restField (op ++ rest) = rest := by
  apply BitVec.eq_of_getLsbD_eq
  intro i hi
  have hbit : (op ++ rest).getLsbD i = rest.getLsbD i := BitVec.getLsbD_append.trans (if_pos hi)
  simpa [restField, hi] using hbit

theorem toNat_ofNat_length {bytes : List Byte} (h : bytes.length ≤ 255) : (BitVec.ofNat 8 bytes.length).toNat = bytes.length := by
  rw [BitVec.toNat_ofNat]
  omega

@[simp] theorem boolByte_getElem_zero (x : Bool) : (boolByte x)[0] = x := boolByte_bit x

/-- An encoded request decodes if its payload and its operand fields are what the checks of R102 and R112 call for. -/
theorem decodeRequest_encode {i : Instr} {op : BitVec 4} {w : Word} {p : List Byte} (hop : opcodeOf i = some op)
    (he : encode i = .request w p) (hfield : opField w = op)
    (hlen : p.length = if takesPayload op then (aField w).toNat else 0) (hi : operandsOf w p = .ok i) :
    decodeRequest w p = .ok i := by
  have hmask := encode_masked hop he
  subst hfield
  have hlen' : p.length = payloadLength w := hlen
  unfold decodeRequest
  rw [if_neg (not_not.2 hmask), if_neg (not_not.2 hlen'), hi]

/-- Settles O1, by the rows: the mask check, the payload's length and the operand fields of each encoding. -/
theorem decodeOfEncode : Obligations.DecodeOfEncode := by
  intro i hwf
  cases i with
  | init | sendByte | sendCommand | sendDataAt | clear | terminate | setBrightness | setActive | scrollStep =>
    exact decodeRequest_encode rfl rfl (opField_requestWord _ _ _) rfl (by simp [operandsOf])
  | mergeRow _ _ offset | packFrame _ _ offset =>
    have hoff : offset.toNat ≤ 8 := of_decide_eq_true hwf
    exact decodeRequest_encode rfl rfl (opField_requestWord _ _ _) rfl (by simp [operandsOf, hoff])
  | sendFrame bytes | scrollStart bytes _ | scroll bytes _ =>
    have hlen : bytes.length ≤ 255 := of_decide_eq_true hwf
    exact decodeRequest_encode rfl rfl (opField_requestWord _ _ _)
      (by simp [takesPayload, toNat_ofNat_length hlen]) (by simp [operandsOf])
  | reservedE | reservedF =>
    exact decodeRequest_encode rfl rfl (opField_append _ _) rfl
      (by simp [operandsOf, opField_append, restField_append])
  | dataAuto => rfl
  | dataFixed => rfl
  | dispCtrl active intensity => revert active intensity; decide
  | addr offset => revert offset; decide
  | data b => rfl

/-! ### Encoding what was decoded -/

@[simp] theorem aField_getLsbD (w : Word) (i : Nat) : (aField w).getLsbD i = (decide (i < 8) && w.getLsbD (16 + i)) := by
  simp [aField]

@[simp] theorem bField_getLsbD (w : Word) (i : Nat) : (bField w).getLsbD i = (decide (i < 16) && w.getLsbD i) := by
  simp [bField]

theorem lowHalf_bLow_getLsbD (w : Word) (i : Nat) : (lowHalf (bLow w)).getLsbD i = (decide (i < 8) && w.getLsbD i) := by
  rw [getLsbD_lowHalf]
  by_cases hi : i < 8 <;> simp [bLow, hi]

theorem pairHalf_bHigh_bLow (w : Word) : pairHalf (bHigh w) (bLow w) = bField w := by
  apply BitVec.eq_of_getLsbD_eq
  intro i hi
  rw [getLsbD_pairHalf, bField_getLsbD]
  split_ifs with h
  · simp [bLow, h, hi]
  · have h8 : i - 8 < 8 := by omega
    have hsum : 8 + (i - 8) = i := by omega
    simp [bHigh, h8, hsum, hi]

/-- A word that passes the mask check is the encoder's word, if their operand fields agree on the bits that are free. -/
theorem encode_eq_of_masked {i : Instr} {op : BitVec 4} {a : Byte} {b : Half} {w : Word} {p : List Byte}
    (hop : opcodeOf i = some op) (he : encode i = .request (requestWord op a b) p)
    (hw : w &&& requestMask op = requestMatch op) (htop : ∀ k < 8, (requestMask op).getLsbD (24 + k) = true)
    (ha : ∀ k < 8, (requestMask op).getLsbD (16 + k) = false → a.getLsbD k = (aField w).getLsbD k)
    (hb : ∀ k < 16, (requestMask op).getLsbD k = false → b.getLsbD k = (bField w).getLsbD k) :
    encode i = .request w p := by
  have hv := encode_masked hop he
  suffices hword : requestWord op a b = w by rw [he, hword]
  apply BitVec.eq_of_getLsbD_eq
  intro k hk
  have fixed := ((masked_eq_iff _ _ _).1 hv k hk).trans ((masked_eq_iff _ _ _).1 hw k hk).symm
  cases hbit : (requestMask op).getLsbD k with
  | true => simpa only [hbit, Bool.and_true] using fixed
  | false =>
    rw [getLsbD_requestWord]
    by_cases h16 : k < 16
    · rw [if_pos h16, hb k h16 hbit, bField_getLsbD, decide_eq_true h16, Bool.true_and]
    · by_cases h24 : k < 24
      · have hsum : 16 + (k - 16) = k := by omega
        rw [if_neg h16, if_pos h24, ha (k - 16) (by omega) (by rw [hsum]; exact hbit), aField_getLsbD, hsum,
          decide_eq_true (by omega), Bool.true_and]
      · have hmask := htop (k - 24) (by omega)
        rw [Nat.add_sub_cancel' (by omega), hbit] at hmask
        exact absurd hmask Bool.false_ne_true

/-- A word by its opcode and the bits under it. -/
theorem append_opField_restField (w : Word) : opField w ++ restField w = w := by
  apply BitVec.eq_of_getLsbD_eq
  intro i hi
  refine BitVec.getLsbD_append.trans ?_
  split_ifs with h
  · simp [restField, h]
  · have h4 : i - 28 < 4 := by omega
    have hsum : 28 + (i - 28) = i := by omega
    simp [opField, h4, hsum]

/-- A word and payload that decode passed all three checks. -/
theorem checks_of_decodeRequest {w : Word} {p : List Byte} {i : Instr} (h : decodeRequest w p = .ok i) :
    w &&& requestMask (opField w) = requestMatch (opField w) ∧ p.length = payloadLength w ∧ operandsOf w p = .ok i := by
  unfold decodeRequest at h
  split_ifs at h with hmask hlen
  exact ⟨not_not.1 hmask, not_not.1 hlen, h⟩

/-- A mask with every bit of an operand set leaves that operand no freedom. -/
theorem agree_of_masked {n off : Nat} {m : Word} {x y : BitVec n} (h : ∀ k < n, m.getLsbD (off + k) = true) :
    ∀ k < n, m.getLsbD (off + k) = false → x.getLsbD k = y.getLsbD k := fun k hk hfree =>
  absurd ((h k hk).symm.trans hfree) (by decide)

/-- No operand in `B`. -/
theorem zeroHalf_agree {m : Word} {w : Word} (h : ∀ k < 16, m.getLsbD k = true) :
    ∀ k < 16, m.getLsbD k = false → (0 : Half).getLsbD k = (bField w).getLsbD k := fun k hk hfree =>
  absurd ((h k hk).symm.trans hfree) (by decide)

/-- A one-bit operand in `A`. -/
theorem boolByte_agree {m : Word} {w : Word} (h : ∀ k < 8, k ≠ 0 → m.getLsbD (16 + k) = true) :
    ∀ k < 8, m.getLsbD (16 + k) = false → (boolByte ((aField w).getLsbD 0)).getLsbD k = (aField w).getLsbD k := by
  intro k hk hfree
  by_cases h0 : k = 0
  · rw [h0, boolByte_bit]
  · exact absurd ((h k hk h0).symm.trans hfree) (by decide)

/-- A one-byte operand in `B`. -/
theorem lowHalf_agree {m : Word} {w : Word} (h : ∀ k < 16, 8 ≤ k → m.getLsbD k = true) :
    ∀ k < 16, m.getLsbD k = false → (lowHalf (bLow w)).getLsbD k = (bField w).getLsbD k := by
  intro k hk hfree
  by_cases h8 : k < 8
  · rw [lowHalf_bLow_getLsbD, bField_getLsbD, decide_eq_true h8, decide_eq_true hk]
  · exact absurd ((h k hk (by omega)).symm.trans hfree) (by decide)

/-- The instruction of a word that passed the mask and payload checks is encoded as that word and payload (R101, R112). -/
theorem encode_of_operandsOf {w : Word} {p : List Byte} {i : Instr}
    (hmask : w &&& requestMask (opField w) = requestMatch (opField w)) (hlen : p.length = payloadLength w)
    (h : operandsOf w p = .ok i) : encode i = .request w p ∧ i.wellFormed = true := by
  have hlt := (opField w).isLt
  unfold operandsOf at h
  unfold payloadLength at hlen
  obtain ⟨n, hn⟩ : ∃ n, (opField w).toNat = n := ⟨_, rfl⟩
  rw [hn] at h hlt
  have hop : opField w = BitVec.ofNat 4 n := by rw [← hn, BitVec.ofNat_toNat, BitVec.setWidth_eq]
  rw [hop] at hmask hlen
  -- the opcodes, those whose operands have one form together
  have opcodes : n = 0 ∨ (n = 1 ∨ n = 2) ∨ n = 3 ∨ n = 4 ∨ (n = 5 ∨ n = 6 ∨ n = 12) ∨ n = 7 ∨
      n = 8 ∨ (n = 9 ∨ n = 10) ∨ (n = 11 ∨ n = 13) ∨ (n = 14 ∨ n = 15) := by omega
  obtain rfl | group | rfl | rfl | group | rfl | rfl | group | group | group := opcodes
  · cases h
    cases List.eq_nil_of_length_eq_zero hlen
    exact ⟨encode_eq_of_masked rfl rfl hmask (by decide) (boolByte_agree (by decide)) fun _ _ _ => rfl, rfl⟩
  · obtain rfl | rfl := group
    all_goals
      cases h
      cases List.eq_nil_of_length_eq_zero hlen
      exact ⟨encode_eq_of_masked rfl rfl hmask (by decide) (agree_of_masked (by decide)) (lowHalf_agree (by decide)), rfl⟩
  · cases h
    cases List.eq_nil_of_length_eq_zero hlen
    exact ⟨encode_eq_of_masked rfl rfl hmask (by decide) (fun _ _ _ => rfl) (lowHalf_agree (by decide)), rfl⟩
  · cases h
    have hlen' : p.length = (aField w).toNat := hlen
    refine ⟨encode_eq_of_masked rfl rfl hmask (by decide) ?_ (zeroHalf_agree (by decide)), ?_⟩
    · rw [hlen', BitVec.ofNat_toNat, BitVec.setWidth_eq]
      exact fun _ _ _ => rfl
    · exact decide_eq_true (Nat.lt_succ_iff.1 (hlen' ▸ (aField w).isLt))
  · obtain rfl | rfl | rfl := group
    all_goals
      cases h
      cases List.eq_nil_of_length_eq_zero hlen
      exact ⟨encode_eq_of_masked rfl rfl hmask (by decide) (agree_of_masked (by decide))
        (zeroHalf_agree (by decide)), rfl⟩
  · cases h
    cases List.eq_nil_of_length_eq_zero hlen
    exact ⟨encode_eq_of_masked rfl rfl hmask (by decide) (agree_of_masked (by decide)) fun _ _ _ => rfl, rfl⟩
  · cases h
    cases List.eq_nil_of_length_eq_zero hlen
    exact ⟨encode_eq_of_masked rfl rfl hmask (by decide) (boolByte_agree (by decide))
      (zeroHalf_agree (by decide)), rfl⟩
  · obtain rfl | rfl := group
    all_goals
      by_cases hoff : (aField w).toNat ≤ 8
      · cases (if_pos hoff).symm.trans h
        cases List.eq_nil_of_length_eq_zero hlen
        refine ⟨encode_eq_of_masked rfl rfl hmask (by decide) (fun _ _ _ => rfl) ?_, decide_eq_true hoff⟩
        rw [pairHalf_bHigh_bLow]
        exact fun _ _ _ => rfl
      · cases (if_neg hoff).symm.trans h
  · obtain rfl | rfl := group
    all_goals
      cases h
      have hlen' : p.length = (aField w).toNat := hlen
      refine ⟨encode_eq_of_masked rfl rfl hmask (by decide) ?_ fun _ _ _ => rfl, ?_⟩
      · rw [hlen', BitVec.ofNat_toNat, BitVec.setWidth_eq]
        exact fun _ _ _ => rfl
      · exact decide_eq_true (Nat.lt_succ_iff.1 (hlen' ▸ (aField w).isLt))
  · obtain rfl | rfl := group
    all_goals
      cases h
      cases List.eq_nil_of_length_eq_zero hlen
      have hword := append_opField_restField w
      rw [hop] at hword
      exact ⟨congrArg (PortItem.request · []) hword, rfl⟩

/-- A request that decodes is the encoding of its instruction. -/
theorem encode_of_decodeRequest {w : Word} {p : List Byte} {i : Instr} (h : decodeRequest w p = .ok i) :
    encode i = .request w p ∧ i.wellFormed = true := by
  obtain ⟨hmask, hlen, hi⟩ := checks_of_decodeRequest h
  exact encode_of_operandsOf hmask hlen hi

/-- A byte by its two nibbles. -/
theorem append_nibbles (b : Byte) : (b.extractLsb' 4 4 : BitVec 4) ++ (b.extractLsb' 0 4 : BitVec 4) = b := by
  revert b
  decide

/-- A byte by its high nibble, bit 3 and the three bits under it. -/
theorem append_display_fields (b : Byte) :
    (b.extractLsb' 4 4 : BitVec 4) ++ BitVec.ofBool (b.getLsbD 3) ++ (b.extractLsb' 0 3 : BitVec 3) = b := by
  revert b
  decide

/-- A wire item that decodes is the encoding of its instruction. -/
theorem encode_of_decodeWire {x : WireItem} {i : Instr} (h : decodeWire x = .ok i) :
    encode i = .wire x ∧ i.wellFormed = true := by
  cases x with
  | first b =>
    dsimp only [decodeWire] at h
    split_ifs at h with hauto hfixed hdisp haddr
    · cases h
      exact ⟨by rw [hauto]; rfl, rfl⟩
    · cases h
      exact ⟨by rw [hfixed]; rfl, rfl⟩
    · cases h
      have hbyte := append_display_fields b
      rw [show b.extractLsb' 4 4 = 0x8 from hdisp] at hbyte
      exact ⟨congrArg (fun b => PortItem.wire (.first b)) hbyte, rfl⟩
    · cases h
      have hbyte := append_nibbles b
      rw [show b.extractLsb' 4 4 = 0xC from haddr] at hbyte
      exact ⟨congrArg (fun b => PortItem.wire (.first b)) hbyte, rfl⟩
  | later b =>
    cases h
    exact ⟨rfl, rfl⟩
  | stop => cases h

/-- Settles O2, for a request and for a wire item. -/
theorem encodeOfDecode : Obligations.EncodeOfDecode := by
  intro x i h
  cases x with
  | request w p => exact encode_of_decodeRequest h
  | wire y => exact encode_of_decodeWire h

/-- Decoding of requests and encoding are inverse to each other on well-formed instructions (R111). -/
theorem decodeRequest_eq_ok_iff {w : Word} {p : List Byte} {i : Instr} :
    decodeRequest w p = .ok i ↔ encode i = .request w p ∧ i.wellFormed = true := by
  refine ⟨encode_of_decodeRequest, fun ⟨he, hwf⟩ => ?_⟩
  have hround := decodeOfEncode i hwf
  rw [he] at hround
  exact hround

/-! ### The fields of a word as numbers (R100) -/

theorem requestWord_toNat (op : BitVec 4) (a : Byte) (b : Half) :
    (requestWord op a b).toNat = op.toNat * 2 ^ 28 + a.toNat * 2 ^ 16 + b.toNat := by
  have ha := a.isLt
  have hb := b.isLt
  have happend : (requestWord op a b).toNat = (op ++ (0 : BitVec 4) ++ a ++ b).toNat := rfl
  rw [happend, BitVec.toNat_append, BitVec.toNat_append, BitVec.toNat_append, ← Nat.shiftLeft_add_eq_or_of_lt hb,
    ← Nat.shiftLeft_add_eq_or_of_lt ha, ← Nat.shiftLeft_add_eq_or_of_lt (0 : BitVec 4).isLt]
  have hzero : (0 : BitVec 4).toNat = 0 := rfl
  simp only [Nat.shiftLeft_eq, hzero]
  omega

theorem append_rest_toNat (op : BitVec 4) (rest : BitVec 28) :
    (op ++ rest : Word).toNat = op.toNat * 2 ^ 28 + rest.toNat := by
  have happend : (op ++ rest : Word).toNat = (op ++ rest).toNat := rfl
  rw [happend, BitVec.toNat_append, ← Nat.shiftLeft_add_eq_or_of_lt rest.isLt, Nat.shiftLeft_eq]

theorem boolByte_toNat (x : Bool) : (boolByte x).toNat = x.toNat := by cases x <;> rfl

theorem pairHalf_toNat (high low : Byte) : (pairHalf high low).toNat = high.toNat * 2 ^ 8 + low.toNat := by
  have happend : (pairHalf high low).toNat = (high ++ low).toNat := rfl
  rw [happend, BitVec.toNat_append, ← Nat.shiftLeft_add_eq_or_of_lt low.isLt, Nat.shiftLeft_eq]

/-- A word is the encoder's word of some fields exactly if its three bit ranges hold them. -/
theorem requestWord_eq_iff {op : BitVec 4} {a : Byte} {b : Half} {w : Word} :
    requestWord op a b = w ↔ bits w 31 24 = 16 * op.toNat ∧ bits w 23 16 = a.toNat ∧ bits w 15 0 = b.toNat := by
  have hw := w.isLt
  have ha := a.isLt
  have hb := b.isLt
  have hop := op.isLt
  rw [← BitVec.toNat_inj, requestWord_toNat]
  simp only [bits]
  omega

theorem append_rest_eq_iff {op : BitVec 4} {rest : BitVec 28} {w : Word} :
    (op ++ rest : Word) = w ↔ bits w 31 28 = op.toNat ∧ bits w 27 0 = rest.toNat := by
  have hw := w.isLt
  have hop := op.isLt
  have hrest := rest.isLt
  rw [← BitVec.toNat_inj, append_rest_toNat]
  simp only [bits]
  omega

/-- The encoder's port item by its fields and payload. -/
theorem request_eq_iff {op : BitVec 4} {a : Byte} {b : Half} {w : Word} {p q : List Byte} :
    PortItem.request (requestWord op a b) q = .request w p ↔
      (bits w 31 24 = 16 * op.toNat ∧ bits w 23 16 = a.toNat ∧ bits w 15 0 = b.toNat) ∧ p = q := by
  rw [PortItem.request.injEq, requestWord_eq_iff, eq_comm (a := q)]

/-- The fields that R101 gives a request are those of its encoding. -/
theorem fieldsOf_iff_encode {w : Word} {p : List Byte} {i : Instr} :
    FieldsOf w p i ↔ encode i = .request w p ∧ i.wellFormed = true := by
  have hw := w.isLt
  cases i with
  | init active level =>
    have := active.toNat_lt
    by_cases hp : p = [] <;>
      simp only [FieldsOf, encode, request_eq_iff, Instr.wellFormed, boolByte_toNat, bits, hp, and_true, and_false,
        BitVec.ofNat_eq_ofNat, BitVec.toNat_ofNat]
    omega
  | setActive on =>
    have := on.toNat_lt
    by_cases hp : p = [] <;>
      simp only [FieldsOf, encode, request_eq_iff, Instr.wellFormed, boolByte_toNat, bits, hp, and_true, and_false,
        BitVec.ofNat_eq_ofNat, BitVec.toNat_ofNat]
    omega
  | sendByte | sendCommand | sendDataAt | setBrightness =>
    by_cases hp : p = [] <;>
      simp only [FieldsOf, encode, request_eq_iff, Instr.wellFormed, lowHalf, pairHalf_toNat, bits, hp, and_true, and_false,
        BitVec.ofNat_eq_ofNat, BitVec.toNat_ofNat]
    omega
  | clear | terminate | scrollStep =>
    by_cases hp : p = [] <;>
      simp only [FieldsOf, encode, request_eq_iff, Instr.wellFormed, ← BitVec.toNat_inj, bits, hp, and_true, and_false,
        BitVec.ofNat_eq_ofNat, BitVec.toNat_ofNat]
    omega
  | mergeRow | packFrame =>
    by_cases hp : p = [] <;>
      simp only [FieldsOf, encode, request_eq_iff, Instr.wellFormed, decide_eq_true_eq, pairHalf_toNat, bits, hp, and_true,
        and_false, false_and, BitVec.ofNat_eq_ofNat, BitVec.toNat_ofNat]
    omega
  | sendFrame bytes | scrollStart bytes | scroll bytes =>
    have hframe : frameMax = 255 := rfl
    have hmsg : msgMax = 255 := rfl
    by_cases hp : p = bytes <;>
      simp only [FieldsOf, encode, request_eq_iff, Instr.wellFormed, decide_eq_true_eq, bits, hp, and_true,
        and_false, false_and, BitVec.ofNat_eq_ofNat, BitVec.toNat_ofNat]
    omega
  | reservedE | reservedF =>
    by_cases hp : p = [] <;>
      simp only [FieldsOf, encode, PortItem.request.injEq, append_rest_eq_iff, eq_comm (a := []), Instr.wellFormed, hp,
        and_true, and_false, BitVec.ofNat_eq_ofNat, BitVec.toNat_ofNat]
  | dataAuto | dataFixed | dispCtrl | addr | data => exact ⟨False.elim, fun ⟨h, _⟩ => nomatch h⟩

/-- Settles O3: decoding is the converse of encoding, and the encoding has the fields of R101. -/
theorem requestDecodesByItsFields : Obligations.RequestDecodesByItsFields := fun _ _ _ =>
  decodeRequest_eq_ok_iff.trans fieldsOf_iff_encode.symm

/-! ### Wire bytes and sample words -/

theorem wireClass_eq_iff (b : Byte) (k : BitVec 4) : wireClass b = k ↔ b.toNat / 16 = k.toNat :=
  Machine.highNibble_eq_iff b k

/-- Settles O4, by the position and then the value of the byte. -/
theorem wireBytesDecodeByValueAndPosition : Obligations.WireBytesDecodeByValueAndPosition := by
  refine ⟨fun b => rfl, rfl, rfl, ?display, ?address, ?reserved⟩
  case display => decide
  case address => decide
  case reserved =>
    intro b hauto hfixed hdisp haddr
    have notDisp : wireClass b ≠ 0x8 := mt (wireClass_eq_iff b 0x8).1 hdisp
    have notAddr : wireClass b ≠ 0xC := mt (wireClass_eq_iff b 0xC).1 haddr
    simp only [decodeWire, if_neg hauto, if_neg hfixed, if_neg notDisp, if_neg notAddr]

/-- Settles O5: each word is closed. -/
theorem sampleWordsDecode : Obligations.SampleWordsDecode := by
  refine ⟨?_, ?_, ?_, ?_, ?_, ?_, ?_, ?_, ?_, ?_, ?_, ?_⟩ <;> decide

end Sys2Proof

/-! ### Levels and the display-control byte -/

namespace Sys2Proof.Machine

open Stated

/-- The clamp to `0..7` fits the three bits of INTENSITY (R37, R105). -/
theorem clampLevel_toNat (x : Int) : ((clampLevel x).toNat : Int) = min (max x 0) 7 := by
  simp only [clampLevel, BitVec.toNat_ofInt]
  omega

/-- The display-control byte of the engine is the byte R95 writes as a number. -/
theorem displayControlByte_eq (intensity : BitVec 3) (active : Bool) :
    displayControlByte intensity active = displayByte intensity active := by
  revert intensity active
  decide

/-- Settles O60: the clamp as a number, and the control byte for each of its 16 values. -/
theorem levelClampAndControlByte : Obligations.LevelClampAndControlByte :=
  ⟨fun level => clampLevel_toNat level.toInt, by decide⟩

end Sys2Proof.Machine

/-! What running an instruction can do, said once for all 21 of them: most send a list of events between a change of registers
and an answer, the others answer from the registers or run the scroll unit. Every later statement about `exec` goes through this
inversion. -/

namespace Sys2Proof.Machine

open Stated

/-! ### The engine's event lists in the spec's terms (R91, R150) -/

theorem txByte_eq_byteEvents (b : Byte) : txByte b = byteEvents b := txBits_eq_flatMap 8 b

theorem txBytes_eq_flatMap (bs : List Byte) : txBytes bs = bs.flatMap byteEvents := by
  induction bs with
  | nil => rfl
  | cons b bs ih => rw [txBytes, ih, txByte_eq_byteEvents, List.flatMap_cons]

theorem txTransaction_eq_transaction (bs : List Byte) : txTransaction bs = transaction bs := by
  rw [txTransaction, txBytes_eq_flatMap]
  rfl

theorem txCommand_eq_transaction (c : Byte) : txCommand c = transaction [c] := by
  rw [txCommand_eq, txTransaction_eq_transaction]

theorem txFrame_eq_frameEvents (bs : List Byte) : txFrame bs = frameEvents bs := by
  rw [txFrame_eq, txTransaction_eq_transaction, txTransaction_eq_transaction]
  rfl

theorem txDataAt_eq_transactions (a v : Byte) : txDataAt a v = transaction [0x44] ++ transaction [0xC0 ||| a, v] := by
  rw [← txTransaction_eq_transaction, ← txTransaction_eq_transaction, txDataAt, txCommand_eq]
  simp [txTransaction, txBytes, addrByte]

theorem drivenLine_eq_pinOf (e : Event) : drivenLine e = pinOf e := by cases e <;> rfl

theorem pinWrites_eq_pinCount (es : List Event) : pinWrites es = pinCount es := by
  simp only [pinWrites, pinCount, List.countP_eq_length_filter, drivenLine_eq_pinOf]

/-! ### The instructions that send -/

/-- The instructions that send one list of events: the requests with pin events but for `SCROLL_STEP` and `SCROLL`, and the
wire bytes. -/
def sends : Instr → Bool
  | .init _ _ | .sendByte _ | .sendCommand _ | .sendDataAt _ _ | .sendFrame _ | .clear | .terminate => true
  | .setBrightness _ | .setActive _ | .dataAuto | .dataFixed | .dispCtrl _ _ | .addr _ | .data _ => true
  | .mergeRow _ _ _ | .packFrame _ _ _ | .scrollStart _ _ | .scrollStep | .scroll _ _ | .reservedE _ | .reservedF _ => false

/-- What is written before the first event (R222). -/
def prepare : Instr → State → State
  | .init active level, s => initRegisters active level s
  | .sendByte _, s => addMark .unframed s
  | .terminate, s => addMark .unframed s
  | .sendDataAt a _, s => markAddress a s
  | .setBrightness level, s => { s with intensity := clampLevel (sint16 level) }
  | .setActive on, s => { s with active := on }
  | _, s => s

/-- The events, by the engine's procedures (R130, R140 to R145, R150 to R153, R170, R93 to R97). -/
def sentEvents (s : State) : Instr → List Event
  | .init active level => initEvents (initRegisters active level s)
  | .sendByte b | .data b => txByte b
  | .sendCommand c => txCommand c
  | .sendDataAt a v => txDataAt a v
  | .sendFrame bytes => txFrame bytes
  | .clear => txFrame (List.replicate s.cfg.frameN 0)
  | .terminate => txTerm
  | .setBrightness level => txCommand (displayControlByte (clampLevel (sint16 level)) s.active)
  | .setActive on => txCommand (displayControlByte s.intensity on)
  | .dataAuto => txCommand 0x40
  | .dataFixed => txCommand 0x44
  | .dispCtrl active intensity => txCommand (displayControlByte intensity active)
  | .addr offset => startCue :: txByte (addrCommand offset)
  | .mergeRow _ _ _ | .packFrame _ _ _ | .scrollStart _ _ | .scrollStep | .scroll _ _ | .reservedE _ | .reservedF _ => []

/-- What follows the last event. -/
def finish : Instr → State → State
  | .init _ _, s => respond .ok [] { s with initDone := true, corrupted := false }
  | i, s => if i.isRequest then respond .ok [] s else s

theorem prepare_sendDataAt (a v : Byte) (s : State) :
    prepare (.sendDataAt a v) s =
      { s with marks := s.marks ++ if s.cfg.addrCount ≤ a.toNat then [⟨.invalidAddress, s.reqIndex⟩] else [] } := by
  change markAddress a s = _
  unfold markAddress
  split_ifs
  · rfl
  · simp

@[simp] theorem prepare_cfg (i : Instr) (s : State) : (prepare i s).cfg = s.cfg := by
  cases i with
  | sendDataAt => rw [prepare_sendDataAt]
  | _ => rfl

@[simp] theorem prepare_input (i : Instr) (s : State) : (prepare i s).input = s.input := by
  cases i with
  | sendDataAt => rw [prepare_sendDataAt]
  | _ => rfl

@[simp] theorem prepare_reqIndex (i : Instr) (s : State) : (prepare i s).reqIndex = s.reqIndex := by
  cases i with
  | sendDataAt => rw [prepare_sendDataAt]
  | _ => rfl

@[simp] theorem prepare_clk (i : Instr) (s : State) : (prepare i s).clk = s.clk := by
  cases i with
  | sendDataAt => rw [prepare_sendDataAt]
  | _ => rfl

@[simp] theorem prepare_dio (i : Instr) (s : State) : (prepare i s).dio = s.dio := by
  cases i with
  | sendDataAt => rw [prepare_sendDataAt]
  | _ => rfl

@[simp] theorem prepare_initDone (i : Instr) (s : State) : (prepare i s).initDone = s.initDone := by
  cases i with
  | sendDataAt => rw [prepare_sendDataAt]
  | _ => rfl

@[simp] theorem prepare_trace (i : Instr) (s : State) : (prepare i s).trace = s.trace := by
  cases i with
  | sendDataAt => rw [prepare_sendDataAt]
  | _ => rfl

@[simp] theorem prepare_rx (i : Instr) (s : State) : (prepare i s).rx = s.rx := by
  cases i with
  | sendDataAt => rw [prepare_sendDataAt]
  | _ => rfl

@[simp] theorem prepare_pinDraws (i : Instr) (s : State) : (prepare i s).pinDraws = s.pinDraws := by
  cases i with
  | sendDataAt => rw [prepare_sendDataAt]
  | _ => rfl

@[simp] theorem prepare_drawIndex (i : Instr) (s : State) : (prepare i s).drawIndex = s.drawIndex := by
  cases i with
  | sendDataAt => rw [prepare_sendDataAt]
  | _ => rfl

@[simp] theorem finish_cfg (i : Instr) (s : State) : (finish i s).cfg = s.cfg := by cases i <;> rfl
@[simp] theorem finish_input (i : Instr) (s : State) : (finish i s).input = s.input := by cases i <;> rfl
@[simp] theorem finish_reqIndex (i : Instr) (s : State) : (finish i s).reqIndex = s.reqIndex := by cases i <;> rfl
@[simp] theorem finish_clk (i : Instr) (s : State) : (finish i s).clk = s.clk := by cases i <;> rfl
@[simp] theorem finish_dio (i : Instr) (s : State) : (finish i s).dio = s.dio := by cases i <;> rfl
@[simp] theorem finish_marks (i : Instr) (s : State) : (finish i s).marks = s.marks := by cases i <;> rfl
@[simp] theorem finish_trace (i : Instr) (s : State) : (finish i s).trace = s.trace := by cases i <;> rfl
@[simp] theorem finish_rx (i : Instr) (s : State) : (finish i s).rx = s.rx := by cases i <;> rfl
@[simp] theorem finish_intensity (i : Instr) (s : State) : (finish i s).intensity = s.intensity := by cases i <;> rfl
@[simp] theorem finish_active (i : Instr) (s : State) : (finish i s).active = s.active := by cases i <;> rfl
@[simp] theorem finish_pinDraws (i : Instr) (s : State) : (finish i s).pinDraws = s.pinDraws := by cases i <;> rfl
@[simp] theorem finish_drawIndex (i : Instr) (s : State) : (finish i s).drawIndex = s.drawIndex := by cases i <;> rfl

theorem finish_response {i : Instr} (h : i.isRequest = true) (s : State) : (finish i s).response = some ⟨.ok, []⟩ := by
  cases i with
  | dataAuto | dataFixed | dispCtrl | addr | data => cases h
  | _ => rfl

theorem initEvents_eq_requestEvents (active : Bool) (level : Half) (s : State) :
    initEvents (initRegisters active level s) = requestEvents s (.init active level) := by
  simp only [initEvents, txFrame_eq_frameEvents, txDisplayControl, txCommand_eq_transaction, displayControlByte_eq,
    requestEvents, initRegisters_cfg, initRegisters_intensity, initRegisters_active, sint16, List.cons_append,
    List.nil_append]

/-- The events of a request, as the rules give them. -/
theorem sentEvents_eq_requestEvents {i : Instr} (h : sends i = true) (hr : i.isRequest = true) (s : State) :
    sentEvents s i = requestEvents s i := by
  cases i with
  | init active level => exact initEvents_eq_requestEvents active level s
  | sendByte b => exact txByte_eq_byteEvents b
  | sendCommand c => exact txCommand_eq_transaction c
  | sendDataAt a v => exact txDataAt_eq_transactions a v
  | sendFrame bytes => exact txFrame_eq_frameEvents bytes
  | clear => exact txFrame_eq_frameEvents _
  | terminate => rfl
  | setBrightness | setActive => exact (txCommand_eq_transaction _).trans (by rw [displayControlByte_eq]; rfl)
  | dataAuto | dataFixed | dispCtrl | addr | data => cases hr
  | mergeRow | packFrame | scrollStart | scrollStep | scroll | reservedE | reservedF => cases h

theorem withPrecheck_of_ready (body : State → Host.Outcome State Fault Refusal) {s : State} (h : Ready s) :
    withPrecheck body s = body s := withPrecheck_ready body h.1 h.2

/-- What an instruction that sends does once it is not refused. -/
def sendOut (i : Instr) (s : State) : State := transmit false (sentEvents s i) (finish i) (prepare i s)

theorem exec_of_sends_unchecked {i : Instr} (h : sends i = true) (hp : usesPrecheck i = false) (s : State) :
    exec i s = .next (sendOut i s) := by
  cases i with
  | init | dataAuto | dataFixed | dispCtrl | addr | data => rfl
  | sendByte | sendCommand | sendDataAt | sendFrame | clear | terminate | setBrightness | setActive => cases hp
  | mergeRow | packFrame | scrollStart | scrollStep | scroll | reservedE | reservedF => cases h

theorem exec_of_sends_checked {i : Instr} (h : sends i = true) (hp : usesPrecheck i = true) (s : State) :
    exec i s = withPrecheck (fun t => .next (sendOut i t)) s := by
  cases i with
  | sendByte | sendCommand | sendDataAt | sendFrame | clear | terminate | setBrightness | setActive => rfl
  | init | dataAuto | dataFixed | dispCtrl | addr | data => cases hp
  | mergeRow | packFrame | scrollStart | scrollStep | scroll | reservedE | reservedF => cases h

/-- An instruction that sends and is not refused: registers, events, answer. -/
theorem exec_of_sends {i : Instr} {s : State} (h : sends i = true) (hready : usesPrecheck i = true → Ready s) :
    exec i s = .next (sendOut i s) := by
  cases hp : usesPrecheck i with
  | false => exact exec_of_sends_unchecked h hp s
  | true => rw [exec_of_sends_checked h hp, withPrecheck_of_ready _ (hready hp)]

/-- The state that an instruction leaves when no pin write fails. -/
def sentState (i : Instr) (s : State) : State := finish i (emitAll (sentEvents s i) (prepare i s))

theorem sendOut_noFault (i : Instr) {s : State} (hio : NoIoFaults s) : sendOut i s = sentState i s :=
  transmit_noFault _ _ _ (by rw [prepare_cfg]; exact hio)

theorem exec_of_sends_noFault {i : Instr} {s : State} (h : sends i = true) (hready : usesPrecheck i = true → Ready s)
    (hio : NoIoFaults s) : exec i s = .next (sentState i s) := by
  rw [exec_of_sends h hready, sendOut_noFault i hio]

/-! ### Refusals -/

/-- What a failed precheck answers (R215, R217, R221). -/
theorem withPrecheck_of_not_ready (body : State → Host.Outcome State Fault Refusal) {s : State} (h : ¬ Ready s) :
    ∃ e, (e = .notInitialized ∨ e = .driverCorrupted) ∧ withPrecheck body s = .next (raiseError e s) := by
  obtain ⟨-, heq⟩ | ⟨-, -, heq⟩ | ⟨hi, hc, -⟩ := withPrecheck_cases body s
  · exact ⟨_, .inl rfl, heq⟩
  · exact ⟨_, .inr rfl, heq⟩
  · exact absurd ⟨hi, hc⟩ h

/-- Settles O46: the precheck answers for the body, with the error `DriverCorrupted`. -/
theorem corruptedDriverRefuses : Obligations.CorruptedDriverRefuses := by
  intro i s hprecheck hi hc
  obtain ⟨body, hexec⟩ := exec_eq_withPrecheck hprecheck
  rw [hexec]
  obtain ⟨notDone, -⟩ | ⟨-, -, refused⟩ | ⟨-, notCorrupted, -⟩ := withPrecheck_cases body s
  · exact absurd (notDone.symm.trans hi) Bool.false_ne_true
  · exact refused
  · exact absurd (notCorrupted.symm.trans hc) Bool.false_ne_true

/-! ### Inversion -/

/-- The instructions that answer from the registers alone, whatever the state. -/
def answersAlone : Instr → Bool
  | .mergeRow _ _ _ | .packFrame _ _ _ | .reservedE _ | .reservedF _ => true
  | _ => false

/-- What an instruction that answers a next state has done. -/
inductive Ran (s : State) : Instr → State → Prop
  /-- The precheck refused it. -/
  | refused {i : Instr} (e : ErrorKind) (hp : usesPrecheck i = true) (hs : ¬ Ready s) : Ran s i (raiseError e s)
  /-- It sent its events, or a pin write of them failed. -/
  | sent {i : Instr} (h : sends i = true) (hready : usesPrecheck i = true → Ready s) : Ran s i (sendOut i s)
  /-- It answered a value. -/
  | answered {i : Instr} (h : answersAlone i = true) (result : List Byte) : Ran s i (respond .ok result s)
  /-- It answered an error. -/
  | failed {i : Instr} (h : answersAlone i = true) (e : ErrorKind) : Ran s i (raiseError e s)
  /-- It loaded the scroll unit. -/
  | loaded {msg : List Byte} {delay : Half} (hready : Ready s) :
      Ran s (.scrollStart msg delay) (respond .ok [] (loadSequencer msg delay s))
  /-- It ran one step of the scroll unit. -/
  | stepped {t : State} (h : scrollStepOp s = .next t) : Ran s .scrollStep t
  /-- It loaded the scroll unit and ran it to its end. -/
  | scrolled {msg : List Byte} {delay : Half} {t : State} (hready : Ready s)
      (h : scrollLoop (scrollBound msg.length) (loadSequencer msg delay s) = .next t) : Ran s (.scroll msg delay) t

theorem next_inj {s t : State} (h : (.next s : Host.Outcome State Fault Refusal) = .next t) : s = t := by
  injection h

theorem execMergeRow_cases (c1 c2 offset : Byte) (s : State) :
    (∃ r, execMergeRow c1 c2 offset s = .next (respond .ok r s)) ∨
      execMergeRow c1 c2 offset s = .next (raiseError .invalidRequest s) := by
  unfold execMergeRow
  split_ifs
  · exact .inl ⟨_, rfl⟩
  · exact .inr rfl

theorem packResponse_cases (c1 c2 : Byte) (n : Nat) (s : State) :
    (∃ r, packResponse c1 c2 n s = respond .ok r s) ∨ packResponse c1 c2 n s = raiseError .missingGlyph s := by
  unfold packResponse
  split
  · exact .inl ⟨_, rfl⟩
  · exact .inr rfl

theorem execPackFrame_cases (c1 c2 offset : Byte) (s : State) :
    (∃ r, execPackFrame c1 c2 offset s = .next (respond .ok r s)) ∨
      ∃ e, execPackFrame c1 c2 offset s = .next (raiseError e s) := by
  unfold execPackFrame
  split_ifs
  · obtain ⟨r, hr⟩ | he := packResponse_cases c1 c2 offset.toNat s
    · exact .inl ⟨r, by rw [hr]⟩
    · exact .inr ⟨_, by rw [he]⟩
  · exact .inr ⟨_, rfl⟩

/-- Everything an instruction that answers a next state can have done. -/
theorem ran_of_exec {i : Instr} {s t : State} (h : exec i s = .next t) : Ran s i t := by
  by_cases hrun : usesPrecheck i = true → Ready s
  · cases hs : sends i with
    | true =>
      rw [exec_of_sends hs hrun] at h
      exact next_inj h ▸ .sent hs hrun
    | false =>
      cases i with
      | mergeRow c1 c2 offset =>
        obtain ⟨r, hr⟩ | he := execMergeRow_cases c1 c2 offset s
        · exact next_inj (hr.symm.trans h) ▸ .answered rfl r
        · exact next_inj (he.symm.trans h) ▸ .failed rfl _
      | packFrame c1 c2 offset =>
        obtain ⟨r, hr⟩ | ⟨e, he⟩ := execPackFrame_cases c1 c2 offset s
        · exact next_inj (hr.symm.trans h) ▸ .answered rfl r
        · exact next_inj (he.symm.trans h) ▸ .failed rfl e
      | scrollStart msg delay =>
        have hload := withPrecheck_of_ready (fun t => .next (respond .ok [] (loadSequencer msg delay t))) (hrun rfl)
        exact next_inj (hload.symm.trans h) ▸ .loaded (hrun rfl)
      | scrollStep => exact .stepped h
      | scroll msg delay =>
        have hloop := withPrecheck_of_ready (fun t => scrollLoop (scrollBound msg.length) (loadSequencer msg delay t))
          (hrun rfl)
        exact .scrolled (hrun rfl) (hloop.symm.trans h)
      | reservedE rest | reservedF rest => exact next_inj h ▸ .failed rfl .invalidRequest
      | init | sendByte | sendCommand | sendDataAt | sendFrame | clear | terminate | setBrightness | setActive | dataAuto
      | dataFixed | dispCtrl | addr | data => cases hs
  · obtain ⟨hp, hs⟩ := Classical.not_imp.1 hrun
    obtain ⟨body, hbody⟩ := exec_eq_withPrecheck hp
    obtain ⟨e, -, he⟩ := withPrecheck_of_not_ready body hs
    exact next_inj (he.symm.trans ((hbody s).symm.trans h)) ▸ .refused e hp hs

/-! ### Properties kept by a transmission -/

/-- A property that events, draws, what follows the last event and a failed pin write keep is kept by a transmission. -/
theorem transmit_induct {P : State → Prop} {b : Bool} {k : State → State} (hevent : ∀ e t, P t → P (emit e t))
    (hdraw : ∀ t, P t → P (takeDraw t)) (hk : ∀ t, P t → P (k t))
    (hfail : ∀ t, t.cfg.ioFaults = true → P t → P (hardwareIoError b t)) (es : List Event) {s : State} (h : P s) :
    P (transmit b es k s) := by
  have hdriven : P (drive es s).1 := drive_induct hevent hdraw es h
  have hcfg := drive_cfg es s
  obtain ⟨t, hdrive, heq⟩ | ⟨t, hdrive, heq⟩ := transmit_cases b es k s <;> rw [hdrive] at hdriven hcfg
  · exact heq ▸ hk t hdriven
  · exact heq ▸ hfail t (hcfg ▸ (drive_aborted hdrive).1) hdriven

/-! ### One step of the scroll unit -/

/-- What `SCROLL_STEP` can have done after its precheck (R186): answered from its registers, met a missing glyph, or sent a
frame. -/
inductive Stepped (s : State) : State → Prop
  | answered (st : Status) (h : s.rStatus = .idle ∧ st = .done ∨ s.rStatus = .done ∧ st = .done ∨
      s.rStatus = .faulted ∧ s.rErr = some st) : Stepped s (respond st [] s)
  | missing (c : Byte × Byte) (h : s.rStatus = .running) (hc : currentPair s = some c) : Stepped s (scrollMissing s)
  | frame (g1 g2 : Glyph) (c : Byte × Byte) (h : s.rStatus = .running) (hc : currentPair s = some c) :
      Stepped s (scrollFrame g1 g2 s)

theorem stepped_of_scrollStepBody {s t : State} (h : scrollStepBody s = .next t) : Stepped s t := by
  unfold scrollStepBody at h
  cases hst : s.rStatus with
  | idle =>
    rw [hst] at h
    exact next_inj h ▸ .answered _ (.inl ⟨hst, rfl⟩)
  | done =>
    rw [hst] at h
    exact next_inj h ▸ .answered _ (.inr (.inl ⟨hst, rfl⟩))
  | faulted =>
    rw [hst] at h
    cases herr : s.rErr with
    | none =>
      rw [herr] at h
      cases h
    | some e =>
      rw [herr] at h
      exact next_inj h ▸ .answered e (.inr (.inr ⟨hst, herr⟩))
  | running =>
    rw [hst] at h
    cases hpair : currentPair s with
    | none =>
      rw [hpair] at h
      cases h
    | some c =>
      rw [hpair] at h
      rw [← next_inj h, scrollPair]
      split
      · exact .frame _ _ c hst hpair
      · exact .missing c hst hpair

/-- What `SCROLL_STEP` can have done: it was refused, or its body ran. -/
theorem scrollStepOp_cases {s t : State} (h : scrollStepOp s = .next t) :
    (¬ Ready s ∧ ∃ e, (e = .notInitialized ∨ e = .driverCorrupted) ∧ t = raiseError e s) ∨ Ready s ∧ Stepped s t := by
  unfold scrollStepOp at h
  by_cases hs : Ready s
  · rw [withPrecheck_of_ready _ hs] at h
    exact .inr ⟨hs, stepped_of_scrollStepBody h⟩
  · obtain ⟨e, hkind, he⟩ := withPrecheck_of_not_ready scrollStepBody hs
    exact .inl ⟨hs, e, hkind, (next_inj (he.symm.trans h)).symm⟩

/-- A property that every step and the final answer keep is kept by the loop of `SCROLL` (R187). -/
theorem scrollLoop_induct {P : State → Prop} (hstep : ∀ s t, P s → scrollStepOp s = .next t → P t)
    (hanswer : ∀ s, P s → P (respond .ok [] s)) {k : Nat} {s t : State} (hs : P s) (h : scrollLoop k s = .next t) : P t := by
  induction k generalizing s with
  | zero => cases h
  | succ k ih =>
    unfold scrollLoop at h
    cases hu : scrollStepOp s with
    | next u =>
      rw [hu] at h
      have hPu := hstep s u hs hu
      dsimp only at h
      split at h
      · exact ih hPu h
      · exact next_inj h ▸ hanswer u hPu
      · exact next_inj h ▸ hPu
    | fault f =>
      rw [hu] at h
      cases h
    | refused r =>
      rw [hu] at h
      cases h

end Sys2Proof.Machine

/-! The invariants that every single effect of an instruction keeps: the display RAM's form, the ground of corruption, the
indices of marks, and what no step takes back (R28 to R30, R35, R60). -/

namespace Sys2Proof.Machine

open Stated

/-! ### A property kept by every effect -/

/-- A property that each effect an instruction is made of keeps: an event, a draw, a mark, a write of the registers that no
receiver or mark depends on, the end of `INIT`, and a failed pin write. -/
structure KeptByEffects (P : State → Prop) : Prop where
  event : ∀ e s, P s → P (emit e s)
  draw : ∀ s, P s → P (takeDraw s)
  mark : ∀ k s, P s → P (addMark k s)
  registers : ∀ (s : State) response intensity active rStatus rMsg rDelay rPair rOff rSent rErr, P s →
    P { s with
      response := response, intensity := intensity, active := active, rStatus := rStatus, rMsg := rMsg, rDelay := rDelay
      rPair := rPair, rOff := rOff, rSent := rSent, rErr := rErr }
  initialized : ∀ s, P s → P { s with initDone := true, corrupted := false }
  corrupted : ∀ s, s.cfg.ioFaults = true → P s → P (addMark .hardwareIo { s with corrupted := true })

namespace KeptByEffects

variable {P : State → Prop} (hP : KeptByEffects P)
include hP

theorem respond (st : Status) (result : List Byte) {s : State} (h : P s) : P (respond st result s) :=
  hP.registers s _ _ _ _ _ _ _ _ _ _ h

theorem raiseError (e : ErrorKind) {s : State} (h : P s) : P (raiseError e s) :=
  hP.respond _ _ (hP.mark _ _ h)

theorem loadSequencer (msg : List Byte) (delay : Half) {s : State} (h : P s) : P (loadSequencer msg delay s) :=
  hP.registers s _ _ _ _ _ _ _ _ _ _ h

theorem advanceSequencer {s : State} (h : P s) : P (advanceSequencer s) :=
  hP.registers s _ _ _ _ _ _ _ _ _ _ h

theorem scrollMissing {s : State} (h : P s) : P (scrollMissing s) :=
  hP.raiseError _ (hP.registers s _ _ _ _ _ _ _ _ _ _ h)

theorem hardwareIoError (b : Bool) {s : State} (hio : s.cfg.ioFaults = true) (h : P s) : P (hardwareIoError b s) := by
  have hfail := hP.corrupted s hio h
  cases b with
  | false => exact hP.registers _ _ _ _ _ _ _ _ _ _ _ hfail
  | true =>
    exact hP.registers (addMark .hardwareIo { s with corrupted := true }) (some ⟨.hardwareIo, []⟩) s.intensity s.active
      .faulted s.rMsg s.rDelay s.rPair s.rOff s.rSent (some .hardwareIo) hfail

theorem transmit (b : Bool) (es : List Event) {k : State → State} (hk : ∀ t, P t → P (k t)) {s : State} (h : P s) :
    P (transmit b es k s) :=
  transmit_induct hP.event hP.draw hk (fun _ hio ht => hP.hardwareIoError b hio ht) es h

theorem prepare (i : Instr) {s : State} (h : P s) : P (prepare i s) := by
  cases i with
  | init => exact hP.registers s _ _ _ _ _ _ _ _ _ _ h
  | sendByte | terminate => exact hP.mark _ _ h
  | sendDataAt a v =>
    change P (markAddress a s)
    unfold markAddress
    split_ifs
    · exact hP.mark _ _ h
    · exact h
  | setBrightness | setActive => exact hP.registers s _ _ _ _ _ _ _ _ _ _ h
  | sendCommand | sendFrame | clear | mergeRow | packFrame | scrollStart | scrollStep | scroll | reservedE | reservedF
  | dataAuto | dataFixed | dispCtrl | addr | data => exact h

theorem finish (i : Instr) {s : State} (h : P s) : P (finish i s) := by
  cases i with
  | init => exact hP.respond _ _ (hP.initialized s h)
  | sendByte | sendCommand | sendDataAt | sendFrame | clear | terminate | setBrightness | setActive | mergeRow | packFrame
  | scrollStart | scrollStep | scroll | reservedE | reservedF => exact hP.respond _ _ h
  | dataAuto | dataFixed | dispCtrl | addr | data => exact h

theorem sendOut (i : Instr) {s : State} (h : P s) : P (sendOut i s) :=
  hP.transmit false _ (fun _ ht => hP.finish i ht) (hP.prepare i h)

theorem scrollStepOp {s t : State} (h : P s) (hstep : scrollStepOp s = .next t) : P t := by
  obtain ⟨-, e, -, rfl⟩ | ⟨-, hbody⟩ := scrollStepOp_cases hstep
  · exact hP.raiseError e h
  · cases hbody with
    | answered st _ => exact hP.respond st [] h
    | missing => exact hP.scrollMissing h
    | frame g1 g2 => exact hP.transmit true _ (fun _ ht => hP.respond _ _ (hP.advanceSequencer ht)) h

/-- Every instruction keeps it. -/
theorem exec {i : Instr} {s t : State} (h : P s) (hexec : exec i s = .next t) : P t := by
  cases ran_of_exec hexec with
  | refused e => exact hP.raiseError e h
  | sent => exact hP.sendOut i h
  | answered _ result => exact hP.respond _ result h
  | failed _ e => exact hP.raiseError e h
  | loaded => exact hP.respond _ _ (hP.loadSequencer _ _ h)
  | stepped hstep => exact hP.scrollStepOp h hstep
  | scrolled _ hloop =>
    exact scrollLoop_induct (fun _ _ hs hstep => hP.scrollStepOp hs hstep) (fun _ hs => hP.respond _ _ hs)
      (hP.loadSequencer _ _ h) hloop

theorem sendWireItem (x : WireItem) {s : State} (h : P s) : P (sendWireItem x s) := by
  cases x <;> exact hP.transmit false _ (fun _ ht => ht) h

/-- Every step keeps it, if taking an item from the port and counting a request do. -/
theorem step (hport : ∀ rest s, P s → P (takeInput rest s)) (hcount : ∀ s, P s → P (closeRequest s)) {s t : State}
    (h : P s) (hstep : step s = .next t) : P t := by
  obtain ⟨-, rfl⟩ | ⟨x, rest, e, -, -, rfl⟩ | ⟨x, rest, i, u, -, -, hexec, rfl⟩ := step_cases hstep
  · exact h
  · have htaken := hport rest s h
    cases x with
    | request => exact hcount _ (hP.raiseError _ htaken)
    | wire y => exact hP.sendWireItem y htaken
  · have hu := hP.exec (hport rest s h) hexec
    cases x with
    | request => exact hcount u hu
    | wire => exact hu

end KeptByEffects

/-! ### The display RAM -/

/-- An event leaves the display RAM as it was, forgets it, or writes a run of bytes inside the controller's offsets. -/
theorem rxEvent_ram_cases (n : Nat) (clk dio : Option Bool) (e : Event) (r : Receiver) :
    (rxEvent n clk dio e r).1.ram = r.ram ∨ (rxEvent n clk dio e r).1.ram = [] ∨
      ∃ a d, a + d.length ≤ n ∧ (rxEvent n clk dio e r).1.ram = Memory.writeList a d r.ram := by
  obtain ⟨-, hram, -, -⟩ | herr | ⟨-, -, happly⟩ := rxEvent_cases n clk dio e r
  · exact .inl hram
  · exact .inr (.inl (by rw [herr]; rfl))
  · rw [happly]
    obtain h | ⟨m, h⟩ | ⟨d, h⟩ | ⟨a, d, hfit, h⟩ := rxApply_cases n r.bytes { r with phase := .idle } <;> rw [h]
    · exact .inr (.inl rfl)
    · exact .inl rfl
    · exact .inl rfl
    · exact .inr (.inr ⟨a, d, hfit, rfl⟩)

/-- The form of a display RAM with `n` offsets (R60). -/
def RamForm (n : Nat) (m : Memory) : Prop := Memory.wf m = true ∧ ∀ c ∈ m, c.1 < n

theorem ramForm_nil (n : Nat) : RamForm n [] := ⟨rfl, fun _ hc => nomatch hc⟩

theorem ramForm_writeList {n a : Nat} {d : List Byte} {m : Memory} (h : RamForm n m) (hfit : a + d.length ≤ n) :
    RamForm n (Memory.writeList a d m) := by
  refine ⟨Memory.wf_writeList a d h.1, fun c hc => ?_⟩
  obtain hlt | hmem := Memory.mem_writeList hc
  · omega
  · exact h.2 c hmem

theorem ramLegal_emit (e : Event) (s : State) (h : RamLegal s) : RamLegal (emit e s) := by
  have hform : RamForm s.cfg.addrCount s.rx.ram := h
  suffices RamForm s.cfg.addrCount (emit e s).rx.ram from this
  rw [emit_rx]
  obtain hram | hram | ⟨a, d, hfit, hram⟩ := rxEvent_ram_cases s.cfg.addrCount s.clk s.dio e s.rx <;> rw [hram]
  · exact hform
  · exact ramForm_nil _
  · exact ramForm_writeList hform hfit

theorem ramLegal_kept : KeptByEffects RamLegal where
  event := ramLegal_emit
  draw _ h := h
  mark _ _ h := h
  registers _ _ _ _ _ _ _ _ _ _ _ h := h
  initialized _ h := h
  corrupted _ _ h := h

/-- Settles O11: only an addressed write puts bytes into the RAM, and it keeps the form. -/
theorem stepKeepsRamLegal : Obligations.StepKeepsRamLegal := fun _ _ h hstep =>
  ramLegal_kept.step (fun _ _ h => h) (fun _ h => h) h hstep

/-! ### Corruption and marks -/

/-- The invariant of O14 in one. -/
def MarksGrounded (s : State) : Prop := CorruptionMarked s ∧ MarksLegal s

theorem marksGrounded_addMark (k : MarkKind) (s : State) (h : MarksGrounded s) : MarksGrounded (addMark k s) := by
  obtain ⟨hcorrupt, hlegal⟩ := h
  constructor
  · intro hc
    obtain ⟨hio, m, hm, hkind⟩ := hcorrupt hc
    exact ⟨hio, m, List.mem_append_left _ hm, hkind⟩
  · intro m hm
    obtain hold | hnew := List.mem_append.1 hm
    · exact hlegal m hold
    · rw [List.mem_singleton.1 hnew]
      exact le_refl _

/-- An event's mark is `M_CONTROLLER_UNDEFINED` or none. -/
theorem emit_marks_eq (e : Event) (s : State) :
    (emit e s).marks = s.marks ∨ (emit e s).marks = (addMark .controllerUndefined s).marks := by
  rw [emit_marks]
  split_ifs
  · exact .inr rfl
  · exact .inl rfl

theorem marksGrounded_congr {s t : State} (hcfg : t.cfg = s.cfg) (hcorrupt : t.corrupted = s.corrupted)
    (hindex : t.reqIndex = s.reqIndex) (hmarks : t.marks = s.marks) (h : MarksGrounded s) : MarksGrounded t := by
  simpa only [MarksGrounded, CorruptionMarked, MarksLegal, hcfg, hcorrupt, hindex, hmarks] using h

theorem marksGrounded_kept : KeptByEffects MarksGrounded where
  event e s h := by
    obtain hsame | hmore := emit_marks_eq e s
    · exact marksGrounded_congr (s := s) rfl rfl rfl hsame h
    · exact marksGrounded_congr (s := addMark .controllerUndefined s) rfl rfl rfl hmore (marksGrounded_addMark _ s h)
  draw _ h := h
  mark := marksGrounded_addMark
  registers _ _ _ _ _ _ _ _ _ _ _ h := h
  initialized _ h := ⟨fun hc => absurd hc Bool.false_ne_true, h.2⟩
  corrupted s hio h :=
    ⟨fun _ => ⟨hio, ⟨.hardwareIo, s.reqIndex⟩, List.mem_append_right _ (List.mem_singleton.2 rfl), rfl⟩,
      (marksGrounded_addMark .hardwareIo s h).2⟩

/-- Settles O14: a failed pin write brings its mark, and a mark has the index of the request at hand. -/
theorem stepKeepsMarksLegal : Obligations.StepKeepsMarksLegal := fun _ _ hcorrupt hlegal hstep =>
  marksGrounded_kept.step (fun _ _ h => h) (fun _ h => ⟨h.1, fun m hm => (h.2 m hm).trans (Nat.le_succ _)⟩)
    ⟨hcorrupt, hlegal⟩ hstep

/-! ### What no step takes back -/

/-- `t` comes after `s` in a run (R28, R30, R35). -/
def After (s t : State) : Prop :=
  s.marks <+: t.marks ∧ s.trace <+: t.trace ∧ t.cfg = s.cfg ∧ (s.initDone = true → t.initDone = true)

theorem after_refl (s : State) : After s s := ⟨List.prefix_refl _, List.prefix_refl _, rfl, id⟩

theorem after_kept (s : State) : KeptByEffects (After s) where
  event e t := fun ⟨hmarks, htrace, hcfg, hinit⟩ => by
    refine ⟨hmarks.trans ?_, htrace.trans (List.prefix_append _ _), hcfg, hinit⟩
    obtain hsame | hmore := emit_marks_eq e t
    · rw [hsame]
    · rw [hmore]
      exact List.prefix_append _ _
  draw _ h := h
  mark _ _ := fun ⟨hmarks, hrest⟩ => ⟨hmarks.trans (List.prefix_append _ _), hrest⟩
  registers _ _ _ _ _ _ _ _ _ _ _ h := h
  initialized _ := fun ⟨hmarks, htrace, hcfg, _⟩ => ⟨hmarks, htrace, hcfg, fun _ => rfl⟩
  corrupted _ _ := fun ⟨hmarks, hrest⟩ => ⟨hmarks.trans (List.prefix_append _ _), hrest⟩

theorem after_of_exec {i : Instr} {s t : State} (h : exec i s = .next t) : After s t :=
  (after_kept s).exec (after_refl s) h

/-- Settles O16: marks and events are only appended, the parameters never written, `INIT_DONE` only set. -/
theorem stepKeepsHistory : Obligations.StepKeepsHistory := fun s _ hstep =>
  (after_kept s).step (fun _ _ h => h) (fun _ h => h) (after_refl s) hstep

end Sys2Proof.Machine

/-! Who writes which register: the scroll unit's registers and their four states (R31, R32, R193), and the engine's (R25 to
R29). With legal scroll registers every step answers, and a `SCROLL` ends in every state (R187). -/

namespace Sys2Proof.Machine

open Stated

/-! ### The scroll unit's registers under the operations that leave them alone -/

theorem sameSequencer_refl (s : State) : SameSequencer s s := ⟨rfl, rfl, rfl, rfl, rfl, rfl, rfl⟩

theorem sameSequencer_trans {s t u : State} (h : SameSequencer s t) (h' : SameSequencer t u) : SameSequencer s u := by
  simp only [SameSequencer] at *
  simp [h, h']

theorem sameSequencer_drive (es : List Event) (s : State) : SameSequencer s (drive es s).1 := by
  simp [SameSequencer]

theorem sameSequencer_transmit (es : List Event) {k : State → State} (hk : ∀ u, SameSequencer u (k u)) (s : State) :
    SameSequencer s (transmit false es k s) :=
  transmit_induct (P := SameSequencer s) (fun _ _ h => h) (fun _ h => h) (fun u h => sameSequencer_trans h (hk u))
    (fun _ _ h => by simpa [SameSequencer] using h) es (sameSequencer_refl s)

theorem sameSequencer_finish (i : Instr) (s : State) : SameSequencer s (finish i s) := by
  cases i <;> exact sameSequencer_refl s

theorem sameSequencer_prepare {i : Instr} (h : movesSequencer i = false) (s : State) : SameSequencer s (prepare i s) := by
  cases i with
  | sendDataAt a v =>
    rw [prepare_sendDataAt]
    exact sameSequencer_refl s
  | init | scrollStart | scrollStep | scroll => cases h
  | sendByte | sendCommand | sendFrame | clear | terminate | setBrightness | setActive | mergeRow | packFrame | reservedE
  | reservedF | dataAuto | dataFixed | dispCtrl | addr | data => exact sameSequencer_refl s

theorem sameSequencer_sendOut (i : Instr) (s : State) : SameSequencer (prepare i s) (sendOut i s) :=
  sameSequencer_transmit _ (sameSequencer_finish i) _

/-- Settles O18: such an instruction is refused, answers, or sends with nothing but its own registers changed. -/
theorem onlyScrollRequestsMoveSequencer : Obligations.OnlyScrollRequestsMoveSequencer := by
  intro i s t hmoves hexec
  cases ran_of_exec hexec with
  | refused => exact sameSequencer_refl s
  | sent => exact sameSequencer_trans (sameSequencer_prepare hmoves s) (sameSequencer_sendOut i s)
  | answered => exact sameSequencer_refl s
  | failed => exact sameSequencer_refl s
  | loaded => cases hmoves
  | stepped => cases hmoves
  | scrolled => cases hmoves

/-- An instruction that sends moves the scroll unit only if it is `INIT`. -/
theorem movesSequencer_of_sends {i : Instr} (h : sends i = true) : movesSequencer i = false ∨ ∃ a l, i = .init a l := by
  cases i with
  | init a l => exact .inr ⟨a, l, rfl⟩
  | sendByte | sendCommand | sendDataAt | sendFrame | clear | terminate | setBrightness | setActive | dataAuto | dataFixed
  | dispCtrl | addr | data => exact .inl rfl
  | mergeRow | packFrame | scrollStart | scrollStep | scroll | reservedE | reservedF => cases h

/-- Settles O19: a step of a sequencer that is done or faulted answers from its registers. -/
theorem doneAndFaultedAreTerminal : Obligations.DoneAndFaultedAreTerminal := by
  intro i s t hexec hterminal
  have notRunning : s.rStatus ≠ .running := by
    obtain h | h := hterminal <;> rw [h] <;> decide
  cases ran_of_exec hexec with
  | refused => exact .inl rfl
  | sent hsends =>
    obtain hmoves | hinit := movesSequencer_of_sends hsends
    · exact .inl (sameSequencer_trans (sameSequencer_prepare hmoves s) (sameSequencer_sendOut i s)).1
    · exact .inr (.inl hinit)
  | answered => exact .inl rfl
  | failed => exact .inl rfl
  | @loaded msg delay => exact .inr (.inr (.inl ⟨msg, delay, rfl⟩))
  | stepped hstep =>
    obtain ⟨-, e, -, rfl⟩ | ⟨-, hbody⟩ := scrollStepOp_cases hstep
    · exact .inl rfl
    · cases hbody with
      | answered => exact .inl rfl
      | missing _ h => exact absurd h notRunning
      | frame _ _ _ h => exact absurd h notRunning
  | @scrolled msg delay => exact .inr (.inr (.inr ⟨msg, delay, rfl⟩))

/-! ### The four states of the scroll unit -/

/-- `SequencerLegal` without the bound on the message, which only a request's encoding gives. -/
def SequencerShape (s : State) : Prop :=
  s.rSent = 8 * s.rPair + s.rOff.val ∧
  match s.rStatus with
  | .idle => s.rMsg = [] ∧ s.rSent = 0 ∧ s.rErr = none
  | .running => s.rPair + 1 < s.rMsg.length ∧ s.rErr = none
  | .done => (s.rMsg.length < 2 ∧ s.rSent = 0 ∨ s.rPair + 1 = s.rMsg.length ∧ s.rOff = 0) ∧ s.rErr = none
  | .faulted => s.rPair + 1 < s.rMsg.length ∧ (s.rErr = some .missingGlyph ∨ s.rErr = some .hardwareIo)

theorem sequencerLegal_iff (s : State) : SequencerLegal s ↔ s.rMsg.length ≤ msgMax ∧ SequencerShape s := Iff.rfl

theorem SequencerShape.congr {s t : State} (hsame : SameSequencer s t) (h : SequencerShape s) : SequencerShape t := by
  obtain ⟨hstatus, hmsg, -, hpair, hoff, hsent, herr⟩ := hsame
  simpa only [SequencerShape, hstatus, hmsg, hpair, hoff, hsent, herr] using h

theorem sequencerShape_of_running {s : State} (h : s.rStatus = .running) :
    SequencerShape s ↔ s.rSent = 8 * s.rPair + s.rOff.val ∧ s.rPair + 1 < s.rMsg.length ∧ s.rErr = none := by
  simp only [SequencerShape, h]

theorem sequencerShape_of_done {s : State} (h : s.rStatus = .done) :
    SequencerShape s ↔ s.rSent = 8 * s.rPair + s.rOff.val ∧
      (s.rMsg.length < 2 ∧ s.rSent = 0 ∨ s.rPair + 1 = s.rMsg.length ∧ s.rOff = 0) ∧ s.rErr = none := by
  simp only [SequencerShape, h]

theorem sequencerShape_of_faulted {s : State} (h : s.rStatus = .faulted) :
    SequencerShape s ↔ s.rSent = 8 * s.rPair + s.rOff.val ∧ s.rPair + 1 < s.rMsg.length ∧
      (s.rErr = some .missingGlyph ∨ s.rErr = some .hardwareIo) := by
  simp only [SequencerShape, h]

theorem sequencerShape_cleared {s : State} (h : SequencerCleared s) : SequencerShape s := by
  obtain ⟨hstatus, hmsg, -, hpair, hoff, hsent, herr⟩ := h
  simp [SequencerShape, hstatus, hmsg, hpair, hoff, hsent, herr]

theorem sequencerShape_loadSequencer (msg : List Byte) (delay : Half) (s : State) :
    SequencerShape (loadSequencer msg delay s) := by
  by_cases hlen : 2 ≤ msg.length
  · exact (sequencerShape_of_running (if_pos hlen)).2 ⟨rfl, hlen, rfl⟩
  · exact (sequencerShape_of_done (if_neg hlen)).2 ⟨rfl, .inl ⟨Nat.lt_of_not_le hlen, rfl⟩, rfl⟩

/-- The next position (R186): the next offset of the pair, or offset 0 of the next pair. -/
theorem advanceSequencer_position (s : State) :
    8 * (advanceSequencer s).rPair + (advanceSequencer s).rOff.val = 8 * s.rPair + s.rOff.val + 1 := by
  simp only [advanceSequencer_rPair, advanceSequencer_rOff]
  split_ifs with h7
  · rw [h7]
    rfl
  · have hlt : s.rOff.val + 1 < 8 := by
      have := s.rOff.isLt
      have : s.rOff.val ≠ 7 := fun h => h7 (Fin.ext h)
      omega
    rw [Fin.val_add_one_of_lt' hlt]
    rfl

theorem sequencerShape_advanceSequencer {s : State} (hrun : s.rStatus = .running) (h : SequencerShape s) :
    SequencerShape (advanceSequencer s) := by
  obtain ⟨hsent, hpair, herr⟩ := (sequencerShape_of_running hrun).1 h
  have hpos := advanceSequencer_position s
  have hcount : (advanceSequencer s).rSent = 8 * (advanceSequencer s).rPair + (advanceSequencer s).rOff.val := by
    rw [hpos, advanceSequencer_rSent, hsent]
  by_cases hlast : (advanceSequencer s).rPair + 1 = s.rMsg.length
  · refine (sequencerShape_of_done (if_pos hlast)).2 ⟨hcount, .inr ⟨hlast, ?_⟩, herr⟩
    have h7 : s.rOff = 7 := by
      by_contra h7
      rw [advanceSequencer_rPair, if_neg h7] at hlast
      omega
    rw [advanceSequencer_rOff, if_pos h7]
  · refine (sequencerShape_of_running ((if_neg hlast).trans hrun)).2 ⟨hcount, ?_, herr⟩
    rw [advanceSequencer_rMsg]
    rw [advanceSequencer_rPair] at hlast ⊢
    split_ifs at hlast ⊢ <;> omega

theorem sequencerShape_scrollMissing {s : State} (hrun : s.rStatus = .running) (h : SequencerShape s) :
    SequencerShape (scrollMissing s) := by
  obtain ⟨hsent, hpair, -⟩ := (sequencerShape_of_running hrun).1 h
  exact (sequencerShape_of_faulted rfl).2 ⟨hsent, hpair, .inl rfl⟩

theorem sequencerShape_hardwareIoError {s : State} (hrun : s.rStatus = .running) (h : SequencerShape s) :
    SequencerShape (hardwareIoError true s) := by
  obtain ⟨hsent, hpair, -⟩ := (sequencerShape_of_running hrun).1 h
  exact (sequencerShape_of_faulted rfl).2 ⟨hsent, hpair, .inr rfl⟩

/-- A sequencer with its registers as the rules say has the pair and the error that its state calls for, so a step answers. -/
theorem scrollStepBody_answers {s : State} (h : SequencerShape s) : ∃ t, scrollStepBody s = .next t := by
  unfold scrollStepBody
  cases hst : s.rStatus with
  | idle => exact ⟨_, rfl⟩
  | done => exact ⟨_, rfl⟩
  | faulted =>
    obtain ⟨-, -, herr | herr⟩ := (sequencerShape_of_faulted hst).1 h <;> (simp only [herr]; exact ⟨_, rfl⟩)
  | running =>
    obtain ⟨-, hpair, -⟩ := (sequencerShape_of_running hst).1 h
    have hcurrent : currentPair s = some (s.rMsg[s.rPair], s.rMsg[s.rPair + 1]) := by
      rw [currentPair, List.getElem?_eq_getElem (Nat.lt_of_succ_lt hpair), List.getElem?_eq_getElem hpair]
    simp only [hcurrent]
    exact ⟨_, rfl⟩

/-- What a step leaves of the sequencer: the shape, the message, and one frame more if it answers `OK`. -/
structure StepKeeps (s t : State) : Prop where
  shape : SequencerShape t
  msg : t.rMsg = s.rMsg
  sent : ∀ r, t.response = some ⟨.ok, r⟩ → t.rSent = s.rSent + 1

theorem stepKeeps_scrollFrame {s : State} (hrun : s.rStatus = .running) (h : SequencerShape s) (g1 g2 : Glyph) :
    StepKeeps s (scrollFrame g1 g2 s) := by
  have hdriven := sameSequencer_drive (pacing s ++ txFrame (pack g1 g2 s.rOff.val)) s
  unfold scrollFrame
  obtain ⟨t, hdrive, heq⟩ | ⟨t, hdrive, heq⟩ := transmit_cases true (pacing s ++ txFrame (pack g1 g2 s.rOff.val))
    (fun t => respond .ok [] (advanceSequencer t)) s
  all_goals
    rw [hdrive] at hdriven
    rw [heq]
    have hrun' : t.rStatus = .running := hdriven.1.trans hrun
    have hmsg : t.rMsg = s.rMsg := hdriven.2.1
  · exact ⟨sequencerShape_advanceSequencer hrun' (h.congr hdriven), hmsg, fun _ _ => congrArg (· + 1) hdriven.2.2.2.2.2.1⟩
  · refine ⟨sequencerShape_hardwareIoError hrun' (h.congr hdriven), hmsg, fun r hr => ?_⟩
    cases hr

theorem stepKeeps_of_scrollStepOp {s t : State} (h : SequencerShape s) (hstep : scrollStepOp s = .next t) :
    StepKeeps s t := by
  obtain ⟨-, e, hkind, rfl⟩ | ⟨-, hbody⟩ := scrollStepOp_cases hstep
  · refine ⟨h, rfl, fun r hr => ?_⟩
    obtain rfl | rfl := hkind <;> cases hr
  · cases hbody with
    | answered st hst =>
      refine ⟨h, rfl, fun r hr => ?_⟩
      obtain ⟨-, rfl⟩ | ⟨-, rfl⟩ | ⟨hfault, herr⟩ := hst
      · cases hr
      · cases hr
      · obtain ⟨-, -, herr' | herr'⟩ := (sequencerShape_of_faulted hfault).1 h <;> cases herr'.symm.trans herr <;> cases hr
    | missing _ hrun => exact ⟨sequencerShape_scrollMissing hrun h, rfl, fun r hr => nomatch hr⟩
    | frame g1 g2 _ hrun => exact stepKeeps_scrollFrame hrun h g1 g2

theorem scrollStepOp_answers {s : State} (h : SequencerShape s) : ∃ t, scrollStepOp s = .next t := by
  by_cases hs : Ready s
  · obtain ⟨t, ht⟩ := scrollStepBody_answers h
    exact ⟨t, (withPrecheck_of_ready _ hs).trans ht⟩
  · obtain ⟨e, -, he⟩ := withPrecheck_of_not_ready scrollStepBody hs
    exact ⟨_, he⟩

/-- No more frames have been sent than the message has (R193). -/
theorem rSent_le_of_shape {s : State} (h : SequencerShape s) : s.rSent ≤ 8 * (s.rMsg.length - 1) := by
  obtain ⟨hsent, hstate⟩ := h
  have hoff := s.rOff.isLt
  cases hst : s.rStatus with
  | idle =>
    simp only [hst] at hstate
    omega
  | running =>
    simp only [hst] at hstate
    omega
  | done =>
    simp only [hst] at hstate
    obtain ⟨⟨-, hzero⟩ | ⟨hlast, hoff0⟩, -⟩ := hstate
    · omega
    · rw [hoff0] at hsent
      simp only [Fin.val_zero] at hsent
      omega
  | faulted =>
    simp only [hst] at hstate
    omega

/-- The loop of `SCROLL` ends: each step that answers `OK` sends one of the frames that are left (R187). -/
theorem scrollLoop_answers {k : Nat} {s : State} (h : SequencerShape s) (hk : scrollBound s.rMsg.length ≤ s.rSent + k) :
    ∃ t, scrollLoop k s = .next t := by
  unfold scrollBound at hk
  induction k generalizing s with
  | zero =>
    have := rSent_le_of_shape h
    omega
  | succ k ih =>
    obtain ⟨u, hu⟩ := scrollStepOp_answers h
    have hkeeps := stepKeeps_of_scrollStepOp h hu
    unfold scrollLoop
    simp only [hu]
    split
    · next r hr => exact ih hkeeps.shape (by rw [hkeeps.msg, hkeeps.sent _ hr]; omega)
    · exact ⟨_, rfl⟩
    · exact ⟨_, rfl⟩

theorem execScroll_answers (msg : List Byte) (delay : Half) (s : State) : ∃ t, exec (.scroll msg delay) s = .next t := by
  have hexec : exec (.scroll msg delay) s =
      withPrecheck (fun t => scrollLoop (scrollBound msg.length) (loadSequencer msg delay t)) s := rfl
  rw [hexec]
  by_cases hs : Ready s
  · rw [withPrecheck_of_ready _ hs]
    exact scrollLoop_answers (sequencerShape_loadSequencer msg delay s) (by simp)
  · obtain ⟨e, -, he⟩ := withPrecheck_of_not_ready
      (fun t => scrollLoop (scrollBound msg.length) (loadSequencer msg delay t)) hs
    exact ⟨_, he⟩

theorem samePort_kept (s : State) : KeptByEffects (SamePort s) where
  event _ _ h := h
  draw _ h := h
  mark _ _ h := h
  registers _ _ _ _ _ _ _ _ _ _ _ h := h
  initialized _ h := h
  corrupted _ _ h := h

theorem samePort_of_exec {i : Instr} {s t : State} (h : exec i s = .next t) : SamePort s t :=
  (samePort_kept s).exec ⟨rfl, rfl, rfl⟩ h

/-- Settles O40: the loop's bound is never reached, and no effect of an instruction touches the port. -/
theorem scrollAlwaysAnswers : Obligations.ScrollAlwaysAnswers := by
  intro msg delay s
  obtain ⟨t, ht⟩ := execScroll_answers msg delay s
  exact ⟨t, ht, samePort_of_exec ht⟩

/-! ### Every step keeps the registers legal -/

theorem sequencerLegal_congr {s t : State} (hsame : SameSequencer s t) (h : SequencerLegal s) : SequencerLegal t := by
  obtain ⟨hlen, hshape⟩ := (sequencerLegal_iff s).1 h
  exact (sequencerLegal_iff t).2 ⟨hsame.2.1 ▸ hlen, hshape.congr hsame⟩

theorem sequencerLegal_of_scrollStepOp {s t : State} (h : SequencerLegal s) (hstep : scrollStepOp s = .next t) :
    SequencerLegal t := by
  obtain ⟨hlen, hshape⟩ := (sequencerLegal_iff s).1 h
  have hkeeps := stepKeeps_of_scrollStepOp hshape hstep
  exact (sequencerLegal_iff t).2 ⟨hkeeps.msg ▸ hlen, hkeeps.shape⟩

theorem sequencerLegal_loadSequencer {msg : List Byte} (hlen : msg.length ≤ msgMax) (delay : Half) (s : State) :
    SequencerLegal (loadSequencer msg delay s) :=
  (sequencerLegal_iff _).2 ⟨hlen, sequencerShape_loadSequencer msg delay s⟩

theorem sequencerLegal_initRegisters (a : Bool) (l : Half) (s : State) : SequencerLegal (initRegisters a l s) :=
  (sequencerLegal_iff _).2 ⟨Nat.zero_le _, sequencerShape_cleared ⟨rfl, rfl, rfl, rfl, rfl, rfl, rfl⟩⟩

theorem sequencerLegal_of_exec {i : Instr} (hwf : i.wellFormed = true) {s t : State} (h : SequencerLegal s)
    (hexec : exec i s = .next t) : SequencerLegal t := by
  cases ran_of_exec hexec with
  | refused => exact h
  | sent hsends =>
    obtain hmoves | ⟨a, l, rfl⟩ := movesSequencer_of_sends hsends
    · exact sequencerLegal_congr (sameSequencer_trans (sameSequencer_prepare hmoves s) (sameSequencer_sendOut i s)) h
    · exact sequencerLegal_congr (sameSequencer_sendOut _ s) (sequencerLegal_initRegisters a l s)
  | answered => exact h
  | failed => exact h
  | @loaded _ delay =>
    exact sequencerLegal_congr (sameSequencer_refl _) (sequencerLegal_loadSequencer (of_decide_eq_true hwf) delay s)
  | stepped hstep => exact sequencerLegal_of_scrollStepOp h hstep
  | scrolled _ hloop =>
    exact scrollLoop_induct (fun _ _ hs hstep => sequencerLegal_of_scrollStepOp hs hstep) (fun _ hs => hs)
      (sequencerLegal_loadSequencer (of_decide_eq_true hwf) _ s) hloop

theorem sameSequencer_sendWireItem (x : WireItem) (s : State) : SameSequencer s (sendWireItem x s) := by
  cases x <;> exact sameSequencer_transmit _ sameSequencer_refl s

/-- Settles O12: what decodes is well formed, so a loaded message is never too long. -/
theorem stepKeepsSequencerLegal : Obligations.StepKeepsSequencerLegal := by
  intro s t h hstep
  obtain ⟨-, rfl⟩ | ⟨x, rest, e, -, -, rfl⟩ | ⟨x, rest, i, u, -, hdecode, hexec, rfl⟩ := step_cases hstep
  · exact h
  · cases x with
    | request => exact h
    | wire y => exact sequencerLegal_congr (sameSequencer_sendWireItem y _) h
  · have hwf := (encodeOfDecode x i hdecode).2
    have hu : SequencerLegal u := sequencerLegal_of_exec hwf (s := takeInput rest s) h hexec
    cases x <;> exact hu

/-- With legal scroll registers every instruction answers. -/
theorem exec_answers {s : State} (h : SequencerShape s) (i : Instr) : ∃ t, exec i s = .next t := by
  by_cases hrun : usesPrecheck i = true → Ready s
  · cases i with
    | mergeRow c1 c2 offset =>
      obtain ⟨r, hr⟩ | he := execMergeRow_cases c1 c2 offset s
      · exact ⟨_, hr⟩
      · exact ⟨_, he⟩
    | packFrame c1 c2 offset =>
      obtain ⟨r, hr⟩ | ⟨e, he⟩ := execPackFrame_cases c1 c2 offset s
      · exact ⟨_, hr⟩
      · exact ⟨_, he⟩
    | scrollStart msg delay =>
      have hload := withPrecheck_of_ready (fun t => .next (respond .ok [] (loadSequencer msg delay t))) (hrun rfl)
      exact ⟨_, hload⟩
    | scrollStep => exact scrollStepOp_answers h
    | scroll msg delay => exact execScroll_answers msg delay s
    | reservedE | reservedF => exact ⟨_, rfl⟩
    | init | sendByte | sendCommand | sendDataAt | sendFrame | clear | terminate | setBrightness | setActive | dataAuto
    | dataFixed | dispCtrl | addr | data => exact ⟨_, exec_of_sends rfl hrun⟩
  · obtain ⟨hp, hs⟩ := Classical.not_imp.1 hrun
    obtain ⟨body, hbody⟩ := exec_eq_withPrecheck hp
    obtain ⟨e, -, he⟩ := withPrecheck_of_not_ready body hs
    exact ⟨_, (hbody s).trans he⟩

/-- Settles O15: the only stops are in the scroll unit, in states its registers rule out. -/
theorem legalStepAlwaysAnswers : Obligations.LegalStepAlwaysAnswers := by
  intro s h
  cases hin : s.input with
  | nil => exact ⟨s, step_idle hin⟩
  | cons x rest =>
    cases hdecode : decode x with
    | error e => exact ⟨_, step_of_undecoded hin hdecode⟩
    | ok i =>
      obtain ⟨u, hu⟩ := exec_answers (s := takeInput rest s) ((sequencerLegal_iff s).1 h).2 i
      rw [step_of_decode hin hdecode, hu]
      cases x <;> exact ⟨_, rfl⟩

/-! ### The engine's registers -/

/-- `INTENSITY`, `ACTIVE` and `INIT_DONE` are as before, and `CORRUPTED` is not cleared. -/
def EngineStays (s t : State) : Prop :=
  t.intensity = s.intensity ∧ t.active = s.active ∧ t.initDone = s.initDone ∧ (s.corrupted = true → t.corrupted = true)

theorem engineStays_refl (s : State) : EngineStays s s := ⟨rfl, rfl, rfl, id⟩

/-- A transmission writes no register of the engine but `CORRUPTED`, which it can only set. -/
theorem engineStays_transmit {u : State} {b : Bool} {k : State → State} (hk : ∀ t, EngineStays u t → EngineStays u (k t))
    (es : List Event) {s : State} (h : EngineStays u s) : EngineStays u (transmit b es k s) := by
  refine transmit_induct (P := EngineStays u) (fun _ _ h => h) (fun _ h => h) hk ?_ es h
  intro t _ ht
  obtain ⟨hi, ha, hd, -⟩ := ht
  cases b <;> exact ⟨hi, ha, hd, fun _ => rfl⟩

theorem engineStays_finish {i : Instr} (h : ∀ a l, i ≠ .init a l) (s : State) : ∀ t, EngineStays s t →
    EngineStays s (finish i t) := by
  cases i with
  | init a l => exact absurd rfl (h a l)
  | _ => exact fun _ ht => ht

theorem engineStays_sendOut {i : Instr} (h : ∀ a l, i ≠ .init a l) (s : State) :
    EngineStays (prepare i s) (sendOut i s) :=
  engineStays_transmit (engineStays_finish h _) _ (engineStays_refl _)

theorem engineStays_of_scrollStepOp {u s t : State} (h : EngineStays u s) (hstep : scrollStepOp s = .next t) :
    EngineStays u t := by
  obtain ⟨-, e, -, rfl⟩ | ⟨-, hbody⟩ := scrollStepOp_cases hstep
  · exact h
  · cases hbody with
    | answered => exact h
    | missing => exact h
    | frame g1 g2 =>
      exact engineStays_transmit (k := fun t => respond .ok [] (advanceSequencer t)) (fun _ ht => ht) _ h

/-- The instructions that write INTENSITY or ACTIVE before their first event (R25, R26). -/
theorem prepare_engine (i : Instr) (s : State) :
    ((prepare i s).intensity = s.intensity ∨ (∃ a l, i = .init a l) ∨ ∃ l, i = .setBrightness l) ∧
    ((prepare i s).active = s.active ∨ (∃ a l, i = .init a l) ∨ ∃ on, i = .setActive on) ∧
    (prepare i s).initDone = s.initDone ∧ (prepare i s).corrupted = s.corrupted := by
  cases i with
  | init a l => exact ⟨.inr (.inl ⟨a, l, rfl⟩), .inr (.inl ⟨a, l, rfl⟩), rfl, rfl⟩
  | setBrightness l => exact ⟨.inr (.inr ⟨l, rfl⟩), .inl rfl, rfl, rfl⟩
  | setActive on => exact ⟨.inl rfl, .inr (.inr ⟨on, rfl⟩), rfl, rfl⟩
  | sendDataAt a v =>
    rw [prepare_sendDataAt]
    exact ⟨.inl rfl, .inl rfl, rfl, rfl⟩
  | sendByte | sendCommand | sendFrame | clear | terminate | mergeRow | packFrame | scrollStart | scrollStep | scroll
  | reservedE | reservedF | dataAuto | dataFixed | dispCtrl | addr | data => exact ⟨.inl rfl, .inl rfl, rfl, rfl⟩

/-- Settles O20: what is written before the first event, and that the rest writes none of the four but `INIT`'s end. -/
theorem writersOfEngineRegisters : Obligations.WritersOfEngineRegisters := by
  intro i s t hexec
  by_cases hinit : ∃ a l, i = .init a l
  · exact ⟨.inr (.inl hinit), .inr (.inl hinit), .inr hinit, fun _ => .inr hinit⟩
  have stays : EngineStays s t →
      (t.intensity = s.intensity ∨ (∃ a l, i = .init a l) ∨ (∃ l, i = .setBrightness l)) ∧
      (t.active = s.active ∨ (∃ a l, i = .init a l) ∨ (∃ on, i = .setActive on)) ∧
      (t.initDone = s.initDone ∨ ∃ a l, i = .init a l) ∧
      (s.corrupted = true → t.corrupted = true ∨ ∃ a l, i = .init a l) :=
    fun ⟨hi, ha, hd, hc⟩ => ⟨.inl hi, .inl ha, .inl hd, fun h => .inl (hc h)⟩
  cases ran_of_exec hexec with
  | refused => exact stays (engineStays_refl s)
  | sent =>
    obtain ⟨hi, ha, hd, hc⟩ := engineStays_sendOut (fun a l h => hinit ⟨a, l, h⟩) s
    obtain ⟨hi', ha', hd', hc'⟩ := prepare_engine i s
    rw [hc'] at hc
    exact ⟨hi'.imp_left hi.trans, ha'.imp_left ha.trans, .inl (hd.trans hd'), fun h => .inl (hc h)⟩
  | answered => exact stays (engineStays_refl s)
  | failed => exact stays (engineStays_refl s)
  | loaded => exact stays (engineStays_refl s)
  | stepped hstep => exact stays (engineStays_of_scrollStepOp (engineStays_refl s) hstep)
  | @scrolled msg delay _ _ hloop =>
    have hloaded : EngineStays s (loadSequencer msg delay s) := engineStays_refl s
    exact stays (scrollLoop_induct (fun _ _ hs hstep => engineStays_of_scrollStepOp hs hstep) (fun _ hs => hs) hloaded hloop)

end Sys2Proof.Machine

/-! One step of the block (R11, R99, R218), the invariants at power-up (R240), and the requests that send nothing:
`MERGE_ROW`, `PACK_FRAME`, `SCROLL_START`, the quiet cases of `SCROLL_STEP`, and the reserved opcodes. -/

namespace Sys2Proof.Machine

open Stated

/-! ### One step -/

/-- Settles O6: the item is taken, its instruction run, and a request counted. -/
theorem stepRunsDecodedItem : Obligations.StepRunsDecodedItem := by
  intro x rest i s hin hdecode
  rw [step_of_decode hin hdecode, show takeInput rest s = { s with input := rest } from rfl]
  cases exec i { s with input := rest } <;> cases x <;> rfl

/-- Settles O7: the refusal is `InvalidRequest` on the state with the item taken. -/
theorem undecodableRequestIsRefused : Obligations.UndecodableRequestIsRefused := by
  intro w p rest s e hin hdecode
  exact step_of_undecoded hin hdecode

/-- A wire item that decodes to nothing is sent as it stands (R98). -/
theorem step_of_undecoded_wire {s : State} {y : WireItem} {rest : List PortItem} {e : DecodeError} {es : List Event}
    (hio : NoIoFaults s) (hin : s.input = .wire y :: rest) (hdecode : decodeWire y = .error e)
    (hsend : ∀ t, sendWireItem y t = sendWire es t) :
    ∃ t, step s = .next t ∧ t.input = rest ∧ t.trace = s.trace ++ es := by
  refine ⟨emitAll es (takeInput rest s), ?_, by simp, by simp⟩
  rw [step_of_undecoded hin hdecode]
  exact congrArg _ ((hsend _).trans (transmit_noFault _ _ _ hio))

/-- Settles O8: nothing at the port, the terminator, a reserved first byte. -/
theorem stepWithoutInstruction : Obligations.StepWithoutInstruction := by
  intro rest s
  refine ⟨step_idle, ?terminator, ?reserved⟩
  case terminator =>
    intro hio hin
    exact step_of_undecoded_wire (es := txTerm) hio hin rfl fun _ => rfl
  case reserved =>
    intro b hio hin hdecode
    rw [← txCommand_eq_transaction]
    exact step_of_undecoded_wire hio hin hdecode fun _ => rfl

/-! ### Power-up -/

/-- Settles O10: the RAM is empty, the scroll unit cleared, the receiver lost before any `INIT`, and there is no mark. -/
theorem powerUpMeetsInvariants : Obligations.PowerUpMeetsInvariants := by
  refine ⟨ramForm_nil _, ?sequencer, ?wire, ?corruption, ?marks⟩
  case sequencer => exact (sequencerLegal_iff _).2 ⟨Nat.zero_le _, sequencerShape_cleared reset_sequencerCleared⟩
  case wire => exact .inl ⟨rfl, rfl, rfl, rfl, fun h => nomatch h⟩
  case corruption => exact fun h => nomatch h
  case marks => exact fun m hm => nomatch hm

/-! ### The renderer's answers -/

theorem execMergeRow_of_le {offset : Byte} (h : offset.toNat ≤ 8) (c1 c2 : Byte) (s : State) :
    exec (.mergeRow c1 c2 offset) s = .next (respond .ok [merge c1 c2 offset.toNat] s) := if_pos h

theorem execMergeRow_of_gt {offset : Byte} (h : 8 < offset.toNat) (c1 c2 : Byte) (s : State) :
    exec (.mergeRow c1 c2 offset) s = .next (raiseError .invalidRequest s) := if_neg (Nat.not_le.2 h)

theorem execPackFrame_of_le {offset : Byte} (h : offset.toNat ≤ 8) (c1 c2 : Byte) (s : State) :
    exec (.packFrame c1 c2 offset) s = .next (packResponse c1 c2 offset.toNat s) := if_pos h

theorem execPackFrame_of_gt {offset : Byte} (h : 8 < offset.toNat) (c1 c2 : Byte) (s : State) :
    exec (.packFrame c1 c2 offset) s = .next (raiseError .invalidRequest s) := if_neg (Nat.not_le.2 h)

/-- Settles O31, by the offset: the row is the interleaver's. -/
theorem mergeRowResult : Obligations.MergeRowResult := by
  intro c1 c2 offset s
  refine ⟨fun h => ⟨merge c1 c2 offset.toNat, mergedRow_merge c1 c2 offset.toNat, ?_⟩, fun h => ?_⟩
  · exact execMergeRow_of_le h c1 c2 s
  · exact execMergeRow_of_gt h c1 c2 s

theorem lookupPair_of_some {cfg : Config} {c1 c2 : Byte} {g1 g2 : Glyph} (h1 : lookupGlyph cfg c1 = some g1)
    (h2 : lookupGlyph cfg c2 = some g2) : lookupPair cfg c1 c2 = some (g1, g2) := by
  simp only [lookupPair, h1, h2]

theorem lookupPair_of_none {cfg : Config} {c1 c2 : Byte} (h : lookupGlyph cfg c1 = none ∨ lookupGlyph cfg c2 = none) :
    lookupPair cfg c1 c2 = none := by
  unfold lookupPair
  obtain h | h := h
  · rw [h]
  · rw [h]
    cases lookupGlyph cfg c1 <;> rfl

theorem packResponse_of_glyphs {c1 c2 : Byte} {g1 g2 : Glyph} {s : State} (h1 : lookupGlyph s.cfg c1 = some g1)
    (h2 : lookupGlyph s.cfg c2 = some g2) (n : Nat) : packResponse c1 c2 n s = respond .ok (pack g1 g2 n) s := by
  simp only [packResponse, lookupPair_of_some h1 h2]

theorem packResponse_of_missing {c1 c2 : Byte} {s : State}
    (h : lookupGlyph s.cfg c1 = none ∨ lookupGlyph s.cfg c2 = none) (n : Nat) :
    packResponse c1 c2 n s = raiseError .missingGlyph s := by
  simp only [packResponse, lookupPair_of_none h]

@[simp] theorem pack_length (g1 g2 : Glyph) (n : Nat) : (pack g1 g2 n).length = 8 := rfl

/-- Row `r` of a packed frame is merged from rows `r` of the two glyphs (R182). -/
theorem pack_getD (g1 g2 : Glyph) (n : Nat) {r : Nat} (hr : r < 8) :
    (pack g1 g2 n).getD r 0 = merge ((glyphRows g1).getD r 0) ((glyphRows g2).getD r 0) n := by
  interval_cases r <;> rfl

/-- Settles O32, by the offset and the two lookups. -/
theorem packFrameResult : Obligations.PackFrameResult := by
  intro c1 c2 offset s
  refine ⟨?packed, ?missing, ?refused⟩
  case packed =>
    intro g1 g2 hoff h1 h2
    refine ⟨pack g1 g2 offset.toNat, ?_, pack_length g1 g2 _, fun r hr => ?_⟩
    · rw [execPackFrame_of_le hoff, packResponse_of_glyphs h1 h2]
      rfl
    · rw [pack_getD g1 g2 _ hr]
      exact mergedRow_merge _ _ _
  case missing =>
    intro hoff hmissing
    rw [execPackFrame_of_le hoff, packResponse_of_missing hmissing]
    rfl
  case refused =>
    intro hoff
    exact execPackFrame_of_gt hoff c1 c2 s

/-! ### The scroll unit without an event -/

theorem exec_scrollStart_of_ready {s : State} (h : Ready s) (msg : List Byte) (delay : Half) :
    exec (.scrollStart msg delay) s = .next (respond .ok [] (loadSequencer msg delay s)) :=
  withPrecheck_of_ready (fun t => .next (respond .ok [] (loadSequencer msg delay t))) h

theorem exec_scrollStep (s : State) : exec .scrollStep s = scrollStepOp s := rfl

theorem scrollStepOp_of_ready {s : State} (h : Ready s) : scrollStepOp s = scrollStepBody s := withPrecheck_of_ready _ h

theorem exec_scroll_of_ready {s : State} (h : Ready s) (msg : List Byte) (delay : Half) :
    exec (.scroll msg delay) s = scrollLoop (scrollBound msg.length) (loadSequencer msg delay s) :=
  withPrecheck_of_ready (fun t => scrollLoop (scrollBound msg.length) (loadSequencer msg delay t)) h

/-- A sequencer that is idle or done has no frame to send (R186). -/
theorem scrollStepBody_of_finished {s : State} (h : s.rStatus = .idle ∨ s.rStatus = .done) :
    scrollStepBody s = .next (respond .done [] s) := by
  unfold scrollStepBody
  obtain h | h := h <;> rw [h]

theorem scrollStepBody_of_faulted {s : State} {e : Status} (h : s.rStatus = .faulted) (he : s.rErr = some e) :
    scrollStepBody s = .next (respond e [] s) := by
  simp only [scrollStepBody, h, he]

theorem currentPair_of_getElem? {s : State} {c1 c2 : Byte} (h1 : s.rMsg[s.rPair]? = some c1)
    (h2 : s.rMsg[s.rPair + 1]? = some c2) : currentPair s = some (c1, c2) := by
  simp only [currentPair, h1, h2]

theorem scrollStepBody_of_running {s : State} {c1 c2 : Byte} (h : s.rStatus = .running)
    (h1 : s.rMsg[s.rPair]? = some c1) (h2 : s.rMsg[s.rPair + 1]? = some c2) :
    scrollStepBody s = .next (scrollPair c1 c2 s) := by
  simp only [scrollStepBody, h, currentPair_of_getElem? h1 h2]

theorem scrollPair_of_missing {s : State} {c1 c2 : Byte} (h : lookupGlyph s.cfg c1 = none ∨ lookupGlyph s.cfg c2 = none) :
    scrollPair c1 c2 s = scrollMissing s := by
  simp only [scrollPair, lookupPair_of_none h]

theorem scrollPair_of_glyphs {s : State} {c1 c2 : Byte} {g1 g2 : Glyph} (h1 : lookupGlyph s.cfg c1 = some g1)
    (h2 : lookupGlyph s.cfg c2 = some g2) : scrollPair c1 c2 s = scrollFrame g1 g2 s := by
  simp only [scrollPair, lookupPair_of_some h1 h2]

/-- Settles O33: the precheck lets it load. -/
theorem scrollStartResult : Obligations.ScrollStartResult := fun msg delay _ hready =>
  exec_scrollStart_of_ready hready msg delay

/-- Settles O35, by the state of the sequencer. -/
theorem scrollStepSendsNothing : Obligations.ScrollStepSendsNothing := by
  intro s hready
  rw [exec_scrollStep, scrollStepOp_of_ready hready]
  refine ⟨scrollStepBody_of_finished, fun e => scrollStepBody_of_faulted, ?missing⟩
  case missing =>
    intro c1 c2 hrun h1 h2 hmissing
    rw [scrollStepBody_of_running hrun h1 h2, scrollPair_of_missing hmissing]
    rfl

/-! ### The reserved opcodes -/

/-- Settles O41: both opcodes are the refusal of R218. -/
theorem reservedOpcodesAreRefused : Obligations.ReservedOpcodesAreRefused := by
  intro i rest s hi
  have refused : exec i s = .next (raiseError .invalidRequest s) := by
    obtain rfl | rfl := hi <;> rfl
  rw [refused, raiseError_eq]
  rfl

end Sys2Proof.Machine

/-! What the requests and wire bytes that send leave behind when no pin write fails: the events, the lines, the answer, and
what an idle or a lost receiver makes of them (R68 to R73, R130, R143 to R145, R151 to R153, R170 to R172, R93 to R97). -/

namespace Sys2Proof.Machine

open Stated

/-! ### The engine's side of a request -/

/-- A request that sends with no failing pin write answers `OK` and leaves the port and the draws alone. -/
theorem answeredOk_sentState {i : Instr} (hr : i.isRequest = true) (s : State) : AnsweredOk s (sentState i s) := by
  refine ⟨finish_response hr _, ⟨?_, ?_, ?_⟩, ?_, ?_⟩ <;> simp [sentState]

theorem sentState_trace {i : Instr} (h : sends i = true) (hr : i.isRequest = true) (s : State) :
    (sentState i s).trace = s.trace ++ requestEvents s i := by
  simp [sentState, sentEvents_eq_requestEvents h hr]

theorem sameSequencer_emitAll (es : List Event) (s : State) : SameSequencer s (emitAll es s) := by
  simp [SameSequencer]

theorem sameSequencer_sentState {i : Instr} (h : movesSequencer i = false) (s : State) :
    SameSequencer s (sentState i s) :=
  sameSequencer_trans (sameSequencer_trans (sameSequencer_prepare h s) (sameSequencer_emitAll _ _)) (sameSequencer_finish i _)

theorem sameEngine_emitAll (es : List Event) (s : State) : SameEngine s (emitAll es s) := by
  simp [SameEngine]

/-- What follows the last event writes neither the lines, the receiver nor a mark. -/
theorem linesHigh_sentState {i : Instr} {s : State} (h : LinesHigh (emitAll (sentEvents s i) (prepare i s))) :
    LinesHigh (sentState i s) := by
  simpa only [LinesHigh, sentState, finish_clk, finish_dio] using h

/-- A state that stands as another does at the receiver. -/
def SameWire (t u : State) : Prop := t.rx = u.rx ∧ t.marks = u.marks

theorem sameWire_sentState (i : Instr) (s : State) : SameWire (sentState i s) (emitAll (sentEvents s i) (prepare i s)) :=
  ⟨finish_rx i _, finish_marks i _⟩

/-- Only `INIT` writes a register of the engine after its first event. -/
theorem sameEngine_sentState {i : Instr} (h : movesSequencer i = false) (s : State) :
    SameEngine (prepare i s) (sentState i s) := by
  have hfinish : ∀ t, SameEngine t (finish i t) := by
    cases i with
    | init | scrollStart | scrollStep | scroll => cases h
    | _ => exact fun _ => ⟨rfl, rfl, rfl, rfl⟩
  obtain ⟨hi, ha, hd, hc⟩ := hfinish (emitAll (sentEvents s i) (prepare i s))
  obtain ⟨hi', ha', hd', hc'⟩ := sameEngine_emitAll (sentEvents s i) (prepare i s)
  exact ⟨hi.trans hi', ha.trans ha', hd.trans hd', hc.trans hc'⟩

/-- Marks are only added, from those that `prepare` leaves. -/
theorem prefix_marks_sentState (i : Instr) (s : State) : (prepare i s).marks <+: (sentState i s).marks := by
  simpa [sentState] using emitAll_marks_prefix (sentEvents s i) (prepare i s)

/-! ### The lines -/

theorem linesHigh_append_txTerm (es : List Event) (s : State) : LinesHigh (emitAll (es ++ txTerm) s) := by
  rw [emitAll_append]
  exact emitAll_txTerm_levels _

theorem linesHigh_txTransaction (bs : List Byte) (s : State) : LinesHigh (emitAll (txTransaction bs) s) :=
  linesHigh_append_txTerm (startCue :: txBytes bs) s

theorem linesHigh_txCommand (c : Byte) (s : State) : LinesHigh (emitAll (txCommand c) s) := by
  rw [txCommand_eq]
  exact linesHigh_txTransaction _ _

theorem linesHigh_txFrame (bs : List Byte) (s : State) : LinesHigh (emitAll (txFrame bs) s) := by
  rw [txFrame_eq, emitAll_append]
  exact linesHigh_txTransaction _ _

/-! ### A transaction at an idle and at a lost receiver -/

theorem undefinedMark_eq_map (flag : Bool) (n : Nat) :
    undefinedMark flag n = (if flag then [MarkKind.controllerUndefined] else []).map fun k => ⟨k, n⟩ := by
  cases flag <;> rfl

/-- Settles O51: the events of a transaction are one `apply` of its bytes. -/
theorem transactionIsReceivedWhole : Obligations.TransactionIsReceivedWhole := by
  intro bytes s hidle applied
  obtain ⟨hp, hc⟩ := hidle
  rw [← txTransaction_eq_transaction]
  refine ⟨?rx, ?marks, linesHigh_txTransaction bytes s⟩
  case rx => rw [emitAll_txTransaction bytes s hp hc]; rfl
  case marks =>
    rw [MarksAdd, emitAll_txTransaction bytes s hp hc, ← undefinedMark_eq_map]
    rfl

/-- A lost receiver takes nothing of a transaction and is idle after it (R63). -/
theorem lost_txTransaction_effect (bs : List Byte) {s t : State} (hp : s.rx.phase = .lost) (hc : s.clk = some true)
    (ht : SameWire t (emitAll (txTransaction bs) s)) : t.rx = { s.rx with phase := .idle } ∧ MarksAdd s t [] := by
  obtain ⟨hrx, hmarks⟩ := ht
  rw [emitAll_txTransaction_lost bs s hp hc] at hrx hmarks
  exact ⟨hrx, hmarks.trans (List.append_nil _).symm⟩

theorem lost_txCommand_effect (c : Byte) {s t : State} (hp : s.rx.phase = .lost) (hc : s.clk = some true)
    (ht : SameWire t (emitAll (txCommand c) s)) : t.rx = { s.rx with phase := .idle } ∧ MarksAdd s t [] := by
  rw [txCommand_eq] at ht
  exact lost_txTransaction_effect [c] hp hc ht

/-- The receiver as it stands when a transaction from idle takes effect. -/
def complete (bs : List Byte) (r : Receiver) : Receiver := { r with phase := .idle, nbits := 0, acc := 0, bytes := bs }

/-- A transaction at an idle receiver whose effect is known. -/
theorem idle_txTransaction {bs : List Byte} {s : State} {r : Receiver} {flag : Bool} (hidle : ReceiverIdle s)
    (h : afterTransaction s.cfg.addrCount bs s.rx = (r, flag)) :
    (emitAll (txTransaction bs) s).rx = r ∧
    MarksAdd s (emitAll (txTransaction bs) s) (if flag then [.controllerUndefined] else []) := by
  rw [emitAll_txTransaction bs s hidle.1 hidle.2, h, MarksAdd, ← undefinedMark_eq_map]
  exact ⟨rfl, rfl⟩

/-- A command at an idle receiver whose effect is known. -/
theorem idle_txCommand {c : Byte} {s : State} {f : Receiver → Receiver} {flag : Bool} (hidle : ReceiverIdle s)
    (h : ∀ r, rxCommand c r = (f r, flag)) :
    (emitAll (txCommand c) s).rx = f (complete [c] s.rx) ∧
    MarksAdd s (emitAll (txCommand c) s) (if flag then [.controllerUndefined] else []) := by
  rw [txCommand_eq]
  exact idle_txTransaction hidle (h _)

theorem rxCommand_auto (r : Receiver) : rxCommand 0x40 r = ({ r with mode := some .auto }, false) := rfl

theorem rxCommand_fixed (r : Receiver) : rxCommand 0x44 r = ({ r with mode := some .fixed }, false) := rfl

theorem rxCommand_display {c : Byte} (h : c.toNat / 16 = 8) (r : Receiver) :
    rxCommand c r = ({ r with disp := some (BitVec.ofNat 3 (c.toNat % 8), c.getLsbD 3) }, false) := by
  have notAuto : c ≠ 0x40 := by rintro rfl; cases h
  have notFixed : c ≠ 0x44 := by rintro rfl; cases h
  rw [rxCommand_eq, if_neg notAuto, if_neg notFixed, if_pos h]

theorem rxCommand_undefined {c : Byte} (h40 : c ≠ 0x40) (h44 : c ≠ 0x44) (h : c.toNat / 16 ≠ 8) (r : Receiver) :
    rxCommand c r = (rxHavoc r, true) := by
  rw [rxCommand_eq, if_neg h40, if_neg h44, if_neg h]

theorem controllerUnknown_of_empty {t : State} (hram : t.rx.ram = []) (hmode : t.rx.mode = none) (hdisp : t.rx.disp = none) :
    ControllerUnknown t := ⟨fun k => by rw [hram, Memory.read_nil], hmode, hdisp⟩

theorem controllerUnknown_of_havoc {t : State} {r : Receiver} (h : t.rx = rxHavoc r) : ControllerUnknown t :=
  controllerUnknown_of_empty (by rw [h]; rfl) (by rw [h]; rfl) (by rw [h]; rfl)

theorem controllerUnknown_of_error {t : State} {r : Receiver} (h : t.rx = rxError r) : ControllerUnknown t :=
  controllerUnknown_of_empty (by rw [h]; rfl) (by rw [h]; rfl) (by rw [h]; rfl)

theorem sameRam_of_ram_eq {s t : State} (h : t.rx.ram = s.rx.ram) : SameRam s t := fun k => by rw [h]

/-- What an idle receiver makes of a command, field by field. -/
theorem idle_txCommand_effect (c : Byte) {s t : State} (hidle : ReceiverIdle s)
    (ht : SameWire t (emitAll (txCommand c) s)) :
    t.rx.phase = .idle ∧
      (if c = 0x40 then t.rx.mode = some .auto ∧ SameRam s t ∧ t.rx.disp = s.rx.disp ∧ MarksAdd s t []
       else if c = 0x44 then t.rx.mode = some .fixed ∧ SameRam s t ∧ t.rx.disp = s.rx.disp ∧ MarksAdd s t []
       else if c.toNat / 16 = 8 then
        t.rx.disp = some (BitVec.ofNat 3 (c.toNat % 8), c.getLsbD 3) ∧ t.rx.mode = s.rx.mode ∧ SameRam s t ∧ MarksAdd s t []
       else ControllerUnknown t ∧ MarksAdd s t [.controllerUndefined]) := by
  obtain ⟨hrx, hmarks⟩ := ht
  by_cases h40 : c = 0x40
  · subst h40
    obtain ⟨hr, hm⟩ := idle_txCommand hidle rxCommand_auto
    rw [← hrx] at hr
    rw [if_pos rfl, hr]
    exact ⟨rfl, rfl, sameRam_of_ram_eq (by rw [hr]; rfl), rfl, hmarks.trans hm⟩
  by_cases h44 : c = 0x44
  · subst h44
    obtain ⟨hr, hm⟩ := idle_txCommand hidle rxCommand_fixed
    rw [← hrx] at hr
    rw [if_neg h40, if_pos rfl, hr]
    exact ⟨rfl, rfl, sameRam_of_ram_eq (by rw [hr]; rfl), rfl, hmarks.trans hm⟩
  by_cases h8 : c.toNat / 16 = 8
  · obtain ⟨hr, hm⟩ := idle_txCommand hidle (rxCommand_display h8)
    rw [← hrx] at hr
    rw [if_neg h40, if_neg h44, if_pos h8, hr]
    exact ⟨rfl, rfl, rfl, sameRam_of_ram_eq (by rw [hr]; rfl), hmarks.trans hm⟩
  · obtain ⟨hr, hm⟩ := idle_txCommand hidle (rxCommand_undefined h40 h44 h8)
    rw [← hrx] at hr
    rw [if_neg h40, if_neg h44, if_neg h8]
    exact ⟨by rw [hr]; rfl, controllerUnknown_of_havoc hr, hmarks.trans hm⟩

/-- Settles O24: the command is a transaction of one byte. -/
theorem sendCommandResult : Obligations.SendCommandResult := by
  intro c s hio hready
  have hwire := sameWire_sentState (.sendCommand c) s
  exact ⟨sentState (.sendCommand c) s, exec_of_sends_noFault rfl (fun _ => hready) hio, sentState_trace rfl rfl s,
    linesHigh_sentState (linesHigh_txCommand c s), answeredOk_sentState rfl s, sameEngine_sentState rfl s,
    sameSequencer_sentState rfl s, prefix_marks_sentState (.sendCommand c) s, fun hidle => idle_txCommand_effect c hidle hwire,
    fun hp hc => lost_txCommand_effect c hp hc hwire⟩

/-! ### The display control (R170 to R173) -/

/-- The display-control byte is a display command with its two fields (R95, R69). -/
theorem rxCommand_displayControlByte (intensity : BitVec 3) (active : Bool) (r : Receiver) :
    rxCommand (displayControlByte intensity active) r = ({ r with disp := some (intensity, active) }, false) := by
  have fields : (displayControlByte intensity active).toNat / 16 = 8 ∧
      BitVec.ofNat 3 ((displayControlByte intensity active).toNat % 8) = intensity ∧
      (displayControlByte intensity active).getLsbD 3 = active := by
    revert intensity active
    decide
  obtain ⟨hclass, hintensity, hactive⟩ := fields
  rw [rxCommand_display hclass, hintensity, hactive]

/-- A display-control command writes the display register and nothing else of the controller. -/
theorem idle_displayControl_effect (intensity : BitVec 3) (active : Bool) {s t : State} (hidle : ReceiverIdle s)
    (ht : SameWire t (emitAll (txCommand (displayControlByte intensity active)) s)) :
    t.rx.phase = .idle ∧ t.rx.disp = some (intensity, active) ∧ t.rx.mode = s.rx.mode ∧ SameRam s t ∧ MarksAdd s t [] := by
  obtain ⟨hrx, hmarks⟩ := ht
  obtain ⟨hr, hm⟩ := idle_txCommand hidle (rxCommand_displayControlByte intensity active)
  rw [← hrx] at hr
  refine ⟨?_, ?_, ?_, sameRam_of_ram_eq ?_, hmarks.trans hm⟩ <;> rw [hr] <;> rfl

/-- The clamped level by its value (R105). -/
theorem eq_clampLevel {intensity : BitVec 3} {level : Half} (h : (intensity.toNat : Int) = min (max level.toInt 0) 7) :
    intensity = clampLevel (sint16 level) :=
  BitVec.eq_of_toNat_eq (Int.ofNat.inj (h.trans (clampLevel_toNat level.toInt).symm))

/-- What a request leaves that stores its operand and re-issues the display control. -/
theorem displayControl_sentState {i : Instr} {intensity : BitVec 3} {active : Bool} {s : State} (hsends : sends i = true)
    (hrequest : i.isRequest = true) (hmoves : movesSequencer i = false) (hio : NoIoFaults s) (hready : Ready s)
    (hprepare : prepare i s = { s with intensity := intensity, active := active })
    (hevents : sentEvents s i = txCommand (displayControlByte intensity active)) :
    ∃ t, exec i s = .next t ∧ t.trace = s.trace ++ transaction [displayByte intensity active] ∧
      t.intensity = intensity ∧ t.active = active ∧ t.initDone = s.initDone ∧ t.corrupted = s.corrupted ∧
      LinesHigh t ∧ AnsweredOk s t ∧ SameSequencer s t ∧ s.marks <+: t.marks ∧
      (ReceiverIdle s → t.rx.phase = .idle ∧ t.rx.disp = some (intensity, active) ∧ t.rx.mode = s.rx.mode ∧
        SameRam s t ∧ MarksAdd s t []) ∧
      (s.rx.phase = .lost → s.clk = some true → t.rx = { s.rx with phase := .idle } ∧ MarksAdd s t []) := by
  have hwire := sameWire_sentState i s
  have hengine := sameEngine_sentState hmoves s
  have hmarks := prefix_marks_sentState i s
  have hlines : LinesHigh (sentState i s) := linesHigh_sentState (by rw [hevents]; exact linesHigh_txCommand _ _)
  rw [hprepare] at hwire hengine hmarks
  rw [hevents] at hwire
  obtain ⟨hi, ha, hd, hc⟩ := hengine
  have htrace : (sentState i s).trace = s.trace ++ transaction [displayByte intensity active] := by
    rw [sentState_trace hsends hrequest, ← sentEvents_eq_requestEvents hsends hrequest, hevents, txCommand_eq_transaction,
      displayControlByte_eq]
  exact ⟨sentState i s, exec_of_sends_noFault hsends (fun _ => hready) hio, htrace, hi, ha, hd, hc, hlines,
    answeredOk_sentState hrequest s, sameSequencer_sentState hmoves s, hmarks,
    fun hidle => idle_displayControl_effect intensity active (s := { s with intensity := intensity, active := active }) hidle
      hwire,
    fun hp hclk => lost_txCommand_effect _ (s := { s with intensity := intensity, active := active }) hp hclk hwire⟩

/-- Settles O30: either request stores its operand, and the command is from the stored state. -/
theorem displayControlResult : Obligations.DisplayControlResult := by
  rintro i intensity active s hio hready (⟨level, rfl, hlevel, rfl⟩ | ⟨rfl, rfl⟩)
  · obtain rfl := eq_clampLevel hlevel
    exact displayControl_sentState rfl rfl rfl hio hready rfl rfl
  · exact displayControl_sentState rfl rfl rfl hio hready rfl rfl

/-! ### The wire commands (R93 to R95) -/

theorem prepare_of_wire {i : Instr} (h : i.isRequest = false) (s : State) : prepare i s = s := by
  cases i with
  | dataAuto | dataFixed | dispCtrl | addr | data => rfl
  | _ => cases h

theorem finish_of_wire {i : Instr} (h : i.isRequest = false) (s : State) : finish i s = s := by
  cases i with
  | dataAuto | dataFixed | dispCtrl | addr | data => rfl
  | _ => cases h

/-- A wire byte is its events and nothing else. -/
theorem exec_of_wire {i : Instr} (h : i.isRequest = false) {s : State} (hio : NoIoFaults s) :
    exec i s = .next (emitAll (sentEvents s i) s) := by
  have hsends : sends i = true ∧ usesPrecheck i = false := by
    cases i with
    | dataAuto | dataFixed | dispCtrl | addr | data => exact ⟨rfl, rfl⟩
    | _ => cases h
  rw [exec_of_sends_noFault hsends.1 (fun hp => absurd (hsends.2.symm.trans hp) Bool.false_ne_true) hio, sentState,
    prepare_of_wire h, finish_of_wire h]

/-- What events leave alone, all at once. -/
theorem emitAll_frame (es : List Event) (s : State) :
    (emitAll es s).response = s.response ∧ SamePort s (emitAll es s) ∧ SameDraws s (emitAll es s) ∧
      SameEngine s (emitAll es s) ∧ SameSequencer s (emitAll es s) ∧ s.marks <+: (emitAll es s).marks :=
  ⟨emitAll_response es s, by simp [SamePort], by simp [SameDraws], sameEngine_emitAll es s, sameSequencer_emitAll es s,
    emitAll_marks_prefix es s⟩

/-- Settles O42, by the three commands. -/
theorem wireCommandResult : Obligations.WireCommandResult := by
  intro i b s hio hi
  have hwire : i.isRequest = false := by
    obtain ⟨rfl, -⟩ | ⟨rfl, -⟩ | ⟨a, l, rfl, -⟩ := hi <;> rfl
  have hevents : sentEvents s i = txCommand b := by
    obtain ⟨rfl, rfl⟩ | ⟨rfl, rfl⟩ | ⟨a, l, rfl, rfl⟩ := hi
    · rfl
    · rfl
    · rw [← displayControlByte_eq]
      rfl
  obtain ⟨hresponse, hport, hdraws, hengine, hseq, hmarks⟩ := emitAll_frame (txCommand b) s
  refine ⟨emitAll (txCommand b) s, by rw [exec_of_wire hwire hio, hevents], ?_, linesHigh_txCommand b s, hresponse, hport,
    hdraws, hengine, hseq, hmarks, fun hidle => ?_, fun hp hc => lost_txCommand_effect b hp hc ⟨rfl, rfl⟩⟩
  · rw [emitAll_trace, txCommand_eq_transaction]
  · obtain ⟨rfl, rfl⟩ | ⟨rfl, rfl⟩ | ⟨a, l, rfl, rfl⟩ := hi
    · obtain ⟨hphase, hmode, hram, hdisp, hm⟩ := idle_txCommand_effect 0x40 hidle ⟨rfl, rfl⟩
      exact ⟨hphase, hram, hm, hmode, hdisp⟩
    · obtain ⟨hphase, hmode, hram, hdisp, hm⟩ := idle_txCommand_effect 0x44 hidle ⟨rfl, rfl⟩
      exact ⟨hphase, hram, hm, hmode, hdisp⟩
    · rw [← displayControlByte_eq]
      obtain ⟨hphase, hdisp, hmode, hram, hm⟩ := idle_displayControl_effect l a hidle ⟨rfl, rfl⟩
      exact ⟨hphase, hram, hm, hmode, hdisp⟩

end Sys2Proof.Machine

/-! Bytes and cues outside a transaction, and bytes inside one that the wire items build up (R65, R96, R97, R143, R145, R219). -/

namespace Sys2Proof.Machine

open Stated

/-! ### Bit slots at an idle receiver (R64) -/

/-- The bit slots of some bits, in order. -/
def bitSlots (vs : List Bool) : List Event := vs.flatMap bitSlot

theorem txByte_eq_bitSlots (b : Byte) : txByte b = bitSlots ((List.range 8).map b.getLsbD) := by
  rw [bitSlots, List.flatMap_map]
  exact txBits_eq_flatMap 8 b

/-- A lost receiver takes nothing of a bit slot. -/
theorem sameWire_bitSlots_lost (vs : List Bool) {s : State} (hp : s.rx.phase = .lost) :
    SameWire (emitAll (bitSlots vs) s) s := by
  induction vs generalizing s with
  | nil => exact ⟨rfl, rfl⟩
  | cons v vs ih =>
    have hslot := emitAll_bitSlot_lost v s hp
    have hrest := ih (s := emitAll (bitSlot v) s) (by rw [hslot]; exact hp)
    rw [bitSlots, List.flatMap_cons, emitAll_append]
    exact ⟨hrest.1.trans (by rw [hslot]; rfl), hrest.2.trans (by rw [hslot]; rfl)⟩

/-- An idle receiver takes nothing of a slot of 1: its data write does not fall. -/
theorem sameWire_bitSlot_true {s : State} (hp : s.rx.phase = .idle) : SameWire (emitAll (bitSlot true) s) s := by
  simp [SameWire, bitSlot, emitAll_cons, rxEvent_of_idle _ _ _ _ hp, rxInIdle]

/-- A slot of 0 is a data fall with the clock low, which loses an idle receiver (R64, R67). -/
theorem lost_of_bitSlot_false {s : State} (hp : s.rx.phase = .idle) :
    (emitAll (bitSlot false) s).rx = rxError s.rx ∧ MarksAdd s (emitAll (bitSlot false) s) [.controllerUndefined] := by
  have hlost : (rxError s.rx).phase = .lost := rfl
  simp [MarksAdd, bitSlot, emitAll_cons, rxEvent_of_idle _ _ _ _ hp, rxInIdle, clkAfter, rxEvent_of_lost _ _ _ _ hlost,
    rxInLost]

/-- Slots of 1 alone leave an idle receiver as it was; the first slot of 0 loses it. -/
theorem bitSlots_idle (vs : List Bool) {s : State} (hp : s.rx.phase = .idle) :
    ((∀ v ∈ vs, v = true) → SameWire (emitAll (bitSlots vs) s) s) ∧
    (¬ (∀ v ∈ vs, v = true) → (emitAll (bitSlots vs) s).rx = rxError s.rx ∧
      MarksAdd s (emitAll (bitSlots vs) s) [.controllerUndefined]) := by
  induction vs generalizing s with
  | nil => exact ⟨fun _ => ⟨rfl, rfl⟩, fun h => absurd (fun _ hv => nomatch hv) h⟩
  | cons v vs ih =>
    rw [bitSlots, List.flatMap_cons, emitAll_append]
    cases v with
    | true =>
      obtain ⟨hrx, hmarks⟩ := sameWire_bitSlot_true hp
      obtain ⟨hall, hsome⟩ := ih (s := emitAll (bitSlot true) s) (by rw [hrx]; exact hp)
      simp only [List.forall_mem_cons, true_and]
      rw [MarksAdd, emitAll_reqIndex, hrx, hmarks] at hsome
      exact ⟨fun h => ⟨(hall h).1.trans hrx, (hall h).2.trans hmarks⟩, hsome⟩
    | false =>
      obtain ⟨hrx, hmarks⟩ := lost_of_bitSlot_false hp
      have hrest := sameWire_bitSlots_lost vs (s := emitAll (bitSlot false) s) (by rw [hrx]; rfl)
      exact ⟨fun h => absurd (h false List.mem_cons_self) Bool.false_ne_true,
        fun _ => ⟨hrest.1.trans hrx, hrest.2.trans hmarks⟩⟩

/-- The byte whose bits are all 1. -/
theorem forall_bits_iff (b : Byte) : (∀ v ∈ (List.range 8).map b.getLsbD, v = true) ↔ b = 0xFF := by
  revert b
  decide

/-- A byte outside a transaction, at an idle receiver: `0xFF` has no falling data write, and any other byte has one. -/
theorem idle_txByte_effect (b : Byte) {s : State} (hp : s.rx.phase = .idle) :
    (b = 0xFF → SameWire (emitAll (txByte b) s) s) ∧
    (b ≠ 0xFF → (emitAll (txByte b) s).rx = rxError s.rx ∧ MarksAdd s (emitAll (txByte b) s) [.controllerUndefined]) := by
  rw [txByte_eq_bitSlots, Ne, ← forall_bits_iff]
  exact bitSlots_idle _ hp

theorem sameWire_txByte_lost (b : Byte) {s : State} (hp : s.rx.phase = .lost) : SameWire (emitAll (txByte b) s) s := by
  rw [txByte_eq_bitSlots]
  exact sameWire_bitSlots_lost _ hp

/-! ### `SEND_BYTE` and `TERMINATE` -/

/-- Two requests' worth of marks in one. -/
theorem marksAdd_of_addMark {k : MarkKind} {s t : State} {more : List MarkKind} (h : MarksAdd (addMark k s) t more) :
    MarksAdd s t (k :: more) := by
  rw [MarksAdd, addMark_marks, addMark_reqIndex, List.append_assoc] at h
  exact h

/-- Settles O23: the byte's slots at each receiver a request may find. -/
theorem sendByteResult : Obligations.SendByteResult := by
  intro b s hio hready
  obtain ⟨hrx, hmarks⟩ := sameWire_sentState (.sendByte b) s
  have hclk : (sentState (.sendByte b) s).clk = some true := (finish_clk _ _).trans (emitAll_txByte_levels b _).1
  have hdio : (sentState (.sendByte b) s).dio = some (b.getLsbD 7) := (finish_dio _ _).trans (emitAll_txByte_levels b _).2
  refine ⟨sentState (.sendByte b) s, exec_of_sends_noFault rfl (fun _ => hready) hio, sentState_trace rfl rfl s, hclk, hdio,
    answeredOk_sentState rfl s, sameEngine_sentState rfl s, sameSequencer_sentState rfl s,
    prefix_marks_sentState (.sendByte b) s, ?allOnes, ?falls, ?lost⟩
  case allOnes =>
    intro hp hb
    obtain ⟨hrx', hmarks'⟩ := (idle_txByte_effect b (s := addMark .unframed s) hp).1 hb
    exact ⟨hrx.trans hrx', hmarks.trans hmarks'⟩
  case falls =>
    intro hp hb
    obtain ⟨hrx', hmarks'⟩ := (idle_txByte_effect b (s := addMark .unframed s) hp).2 hb
    have herror := hrx.trans hrx'
    exact ⟨by rw [herror]; rfl, controllerUnknown_of_error herror, marksAdd_of_addMark (hmarks.trans hmarks')⟩
  case lost =>
    intro hp
    obtain ⟨hrx', hmarks'⟩ := sameWire_txByte_lost b (s := addMark .unframed s) hp
    exact ⟨hrx.trans hrx', hmarks.trans hmarks'⟩

/-- The terminator alone at an idle receiver: its fall is a start cue, and its last rise comes inside a byte (R64, R65). -/
theorem idle_txTerm_effect {s : State} (hidle : ReceiverIdle s) :
    (∃ r, (emitAll txTerm s).rx = rxError r) ∧ MarksAdd s (emitAll txTerm s) [.controllerUndefined] := by
  obtain ⟨hp, hc⟩ := hidle
  have hstart := emit_startCue s hp hc
  simp only [txTerm, emitAll_cons, emitAll_nil]
  rw [show Event.setDat false = startCue from rfl, hstart]
  simp [MarksAdd, received, emit, rxStart, rxEvent, rxInTxB, rxInTxL, rxSample, clkAfter, dioAfter]

/-- Settles O25: the cue is read as a start, or brings a lost receiver back. -/
theorem terminateResult : Obligations.TerminateResult := by
  intro s hio hready
  obtain ⟨hrx, hmarks⟩ := sameWire_sentState .terminate s
  refine ⟨sentState .terminate s, exec_of_sends_noFault rfl (fun _ => hready) hio, sentState_trace rfl rfl s,
    linesHigh_sentState (emitAll_txTerm_levels _), answeredOk_sentState rfl s, sameEngine_sentState rfl s,
    sameSequencer_sentState rfl s, prefix_marks_sentState .terminate s, ?idle, ?lost⟩
  case idle =>
    intro hidle
    obtain ⟨⟨r, hrx'⟩, hmarks'⟩ := idle_txTerm_effect (s := addMark .unframed s) hidle
    have herror := hrx.trans hrx'
    exact ⟨by rw [herror]; rfl, controllerUnknown_of_error herror, marksAdd_of_addMark (hmarks.trans hmarks')⟩
  case lost =>
    intro hp
    have hterm : emitAll (sentEvents s .terminate) (prepare .terminate s) = _ :=
      emitAll_txTerm_lost (addMark .unframed s) hp
    rw [hterm] at hrx hmarks
    exact ⟨hrx, hmarks⟩

/-! ### The bytes of an open transaction (R96, R97) -/

theorem addrCommand_toNat (o : BitVec 4) : (addrCommand o).toNat = 0xC0 + o.toNat := by
  revert o
  decide

/-- A data write of 0 changes nothing at a lost receiver, whatever the clock is (R63). -/
theorem sameWire_startCue_lost {s : State} (hp : s.rx.phase = .lost) : SameWire (emit startCue s) s := by
  simp [SameWire, startCue, rxEvent_of_lost _ _ _ _ hp, rxInLost]

/-- An address byte opens a transaction at an idle receiver. -/
theorem idle_address_effect (b : Byte) {s : State} (hidle : ReceiverIdle s) :
    (emitAll (startCue :: txByte b) s).rx = { s.rx with phase := .txB, nbits := 0, acc := 0, bytes := [b] } ∧
    MarksAdd s (emitAll (startCue :: txByte b) s) [] := by
  rw [emitAll_cons, emit_startCue s hidle.1 hidle.2, emitAll_txByte b _ rfl rfl rfl]
  exact ⟨rfl, (List.append_nil _).symm⟩

/-- A byte at a byte boundary is added to the open transaction. -/
theorem open_byte_effect (b : Byte) {s : State} (hp : s.rx.phase = .txB) (hn : s.rx.nbits = 0) (ha : s.rx.acc = 0) :
    (emitAll (txByte b) s).rx = { s.rx with bytes := s.rx.bytes ++ [b] } ∧ MarksAdd s (emitAll (txByte b) s) [] := by
  rw [emitAll_txByte b s hp hn ha]
  exact ⟨rfl, (List.append_nil _).symm⟩

/-- Settles O43: the address byte behind its start cue, the data byte alone. -/
theorem wireByteResult : Obligations.WireByteResult := by
  rintro i b s hio (⟨o, rfl, hb⟩ | rfl)
  · obtain rfl : b = addrCommand o := BitVec.eq_of_toNat_eq (hb.trans (addrCommand_toNat o).symm)
    obtain ⟨hresponse, hport, hdraws, hengine, hseq, hmarks⟩ := emitAll_frame (startCue :: txByte (addrCommand o)) s
    obtain ⟨hclk, hdio⟩ := emitAll_txByte_levels (addrCommand o) (emit startCue s)
    refine ⟨emitAll (startCue :: txByte (addrCommand o)) s, exec_of_wire rfl hio, ?_, hclk, hdio, hresponse, hport, hdraws,
      hengine, hseq, hmarks, fun _ hidle => idle_address_effect _ hidle, (by intro h; cases h), fun hp => ?_⟩
    · rw [emitAll_trace, txByte_eq_byteEvents]
      rfl
    · obtain ⟨hrx, hm⟩ := sameWire_startCue_lost hp
      obtain ⟨hrx', hm'⟩ := sameWire_txByte_lost (addrCommand o) (s := emit startCue s) (by rw [hrx]; exact hp)
      exact ⟨hrx'.trans hrx, (hm'.trans hm).trans (List.append_nil _).symm⟩
  · obtain ⟨hresponse, hport, hdraws, hengine, hseq, hmarks⟩ := emitAll_frame (txByte b) s
    obtain ⟨hclk, hdio⟩ := emitAll_txByte_levels b s
    refine ⟨emitAll (txByte b) s, exec_of_wire rfl hio, ?_, hclk, hdio, hresponse, hport, hdraws,
      hengine, hseq, hmarks, fun ⟨o, ho⟩ => (nomatch ho), fun _ hp hn ha => open_byte_effect b hp hn ha, fun hp => ?_⟩
    · rw [emitAll_trace, txByte_eq_byteEvents]
      rfl
    · obtain ⟨hrx, hm⟩ := sameWire_txByte_lost b hp
      exact ⟨hrx, hm.trans (List.append_nil _).symm⟩

end Sys2Proof.Machine

/-! The addressed writes: `SEND_DATA_AT` (R151), the frame writes `SEND_FRAME` and `CLEAR` (R150, R152, R153), `INIT` (R130), what
can make the controller known (R73), and the frame write as a program of wire items. -/

namespace Sys2Proof.Machine

open Stated

/-! ### Marks of two procedures in a row -/

theorem marksAdd_trans {s u t : State} {a b : List MarkKind} (hindex : u.reqIndex = s.reqIndex) (h : MarksAdd s u a)
    (h' : MarksAdd u t b) : MarksAdd s t (a ++ b) := by
  rw [MarksAdd] at *
  rw [h', h, hindex, List.map_append, List.append_assoc]

/-! ### `SEND_DATA_AT` -/

theorem txDataAt_eq (a v : Byte) : txDataAt a v = txCommand 0x44 ++ txTransaction [addrByte a, v] := by
  simp [txDataAt, txTransaction, txBytes]

/-- Whether the address byte of `SEND_DATA_AT` is an address command of an offset that the controller has. -/
def AddressHits (n : Nat) (c : Byte) : Prop := c.toNat / 16 = 12 ∧ c.toNat % 16 < n

theorem addressedWriteFits_fixed_iff {n : Nat} {c v : Byte} : AddressedWriteFits n c [v] (some .fixed) ↔ AddressHits n c := by
  simp [AddressedWriteFits, AddressHits]

theorem not_addressedWriteFits_none {n : Nat} {c : Byte} {d : List Byte} : ¬ AddressedWriteFits n c d none := by
  simp [AddressedWriteFits]

/-- Two bytes at an idle receiver in fixed mode. -/
theorem idle_fixed_write_effect (c v : Byte) {s t : State} (hidle : ReceiverIdle s) (hmode : s.rx.mode = some .fixed)
    (ht : SameWire t (emitAll (txTransaction [c, v]) s)) :
    t.rx.phase = .idle ∧
    (AddressHits s.cfg.addrCount c → t.rx.mode = some .fixed ∧ t.rx.disp = s.rx.disp ∧ MarksAdd s t [] ∧
      ∀ k, Memory.read t.rx.ram k = if k = c.toNat % 16 then some v else Memory.read s.rx.ram k) ∧
    (¬ AddressHits s.cfg.addrCount c → ControllerUnknown t ∧ MarksAdd s t [.controllerUndefined]) := by
  obtain ⟨hrx, hmarks⟩ := ht
  have hmode' : (complete [c, v] s.rx).mode = some .fixed := hmode
  have hafter : afterTransaction s.cfg.addrCount [c, v] s.rx = rxWrite s.cfg.addrCount c [v] (complete [c, v] s.rx) := rfl
  by_cases hhit : AddressHits s.cfg.addrCount c
  · have hfits : AddressedWriteFits s.cfg.addrCount c [v] (complete [c, v] s.rx).mode := by
      rw [hmode']
      exact addressedWriteFits_fixed_iff.2 hhit
    obtain ⟨hr, hm⟩ := idle_txTransaction hidle (hafter.trans (rxWrite_of_fits hfits))
    rw [← hrx] at hr
    refine ⟨by rw [hr]; rfl, fun _ => ⟨by rw [hr]; exact hmode, by rw [hr]; rfl, hmarks.trans hm, fun k => ?_⟩,
      fun h => absurd hhit h⟩
    rw [hr]
    refine (Memory.read_writeList _ k [v] s.rx.ram).trans ?_
    by_cases hk : k = c.toNat % 16
    · simp [hk]
    · have : ¬ (c.toNat % 16 ≤ k ∧ k < c.toNat % 16 + [v].length) := by
        simp only [List.length_singleton]
        omega
      rw [if_neg this, if_neg hk]
  · have hfits : ¬ AddressedWriteFits s.cfg.addrCount c [v] (complete [c, v] s.rx).mode := by
      rw [hmode']
      exact mt addressedWriteFits_fixed_iff.1 hhit
    obtain ⟨hr, hm⟩ := idle_txTransaction hidle (hafter.trans (rxWrite_of_not_fits hfits))
    rw [← hrx] at hr
    exact ⟨by rw [hr]; rfl, fun h => absurd h hhit, fun _ => ⟨controllerUnknown_of_havoc hr, hmarks.trans hm⟩⟩

/-- Bytes at an idle receiver that knows no address mode (R72). -/
theorem idle_unknown_write_effect (c d : Byte) (ds : List Byte) {s t : State} (hidle : ReceiverIdle s)
    (hmode : s.rx.mode = none) (ht : SameWire t (emitAll (txTransaction (c :: d :: ds)) s)) :
    t.rx.phase = .idle ∧ ControllerUnknown t ∧ MarksAdd s t [.controllerUndefined] := by
  obtain ⟨hrx, hmarks⟩ := ht
  have hfits : ¬ AddressedWriteFits s.cfg.addrCount c (d :: ds) (complete (c :: d :: ds) s.rx).mode := by
    rw [show (complete (c :: d :: ds) s.rx).mode = none from hmode]
    exact not_addressedWriteFits_none
  obtain ⟨hr, hm⟩ := idle_txTransaction hidle
    ((rfl : afterTransaction s.cfg.addrCount (c :: d :: ds) s.rx = rxWrite _ c (d :: ds) _).trans (rxWrite_of_not_fits hfits))
  rw [← hrx] at hr
  exact ⟨by rw [hr]; rfl, controllerUnknown_of_havoc hr, hmarks.trans hm⟩

/-- The mark of the contract check (R213). -/
theorem marksAdd_prepare_sendDataAt (a v : Byte) (s : State) :
    MarksAdd s (prepare (.sendDataAt a v) s) (if s.cfg.addrCount ≤ a.toNat then [.invalidAddress] else []) := by
  rw [prepare_sendDataAt, MarksAdd]
  split_ifs <;> rfl

/-- Settles O26: the fixed mode, then the address byte with its data, from idle; from lost the mode is never heard. -/
theorem sendDataAtResult : Obligations.SendDataAtResult := by
  intro a v s hio hready
  let u := prepare (.sendDataAt a v) s
  let w := emitAll (txCommand 0x44) u
  have hwire := sameWire_sentState (.sendDataAt a v) s
  rw [show sentEvents s (.sendDataAt a v) = txDataAt a v from rfl, txDataAt_eq, emitAll_append] at hwire
  have hu : MarksAdd s u _ := marksAdd_prepare_sendDataAt a v s
  have hindex : w.reqIndex = s.reqIndex := (emitAll_reqIndex _ u).trans (prepare_reqIndex _ s)
  have hcfg : w.cfg = s.cfg := (emitAll_cfg _ u).trans (prepare_cfg _ s)
  have hclk : w.clk = some true := (linesHigh_txCommand 0x44 u).1
  have hrxu : u.rx = s.rx := prepare_rx _ s
  have hclku : u.clk = s.clk := prepare_clk _ s
  refine ⟨sentState (.sendDataAt a v) s, exec_of_sends_noFault rfl (fun _ => hready) hio, sentState_trace rfl rfl s,
    linesHigh_sentState ?lines, answeredOk_sentState rfl s, ?engine, sameSequencer_sentState rfl s, ?invalid, ?idle, ?lost⟩
  case lines =>
    rw [show sentEvents s (.sendDataAt a v) = txDataAt a v from rfl, txDataAt_eq, emitAll_append]
    exact linesHigh_txTransaction _ _
  case engine =>
    have h := sameEngine_sentState (i := .sendDataAt a v) rfl s
    rw [prepare_sendDataAt] at h
    exact h
  case invalid =>
    intro hle
    rw [if_pos hle] at hu
    have h := prefix_marks_sentState (.sendDataAt a v) s
    rw [show (prepare (.sendDataAt a v) s).marks = _ from hu] at h
    exact h
  case idle =>
    rintro ⟨hp, hc⟩
    have hidle : ReceiverIdle u := ⟨by rw [hrxu]; exact hp, by rw [hclku]; exact hc⟩
    have hw : w.rx = _ := (idle_txCommand hidle rxCommand_fixed).1
    have hm : MarksAdd u w [] := (idle_txCommand hidle rxCommand_fixed).2
    rw [hrxu] at hw
    have hidlew : ReceiverIdle w := ⟨by rw [hw]; rfl, hclk⟩
    obtain ⟨hphase, hhit, hmiss⟩ := idle_fixed_write_effect (addrByte a) v hidlew (by rw [hw]) hwire
    rw [hcfg] at hhit hmiss
    have hmarks := marksAdd_trans (prepare_reqIndex _ s) hu hm
    refine ⟨hphase, ?_⟩
    by_cases h : AddressHits s.cfg.addrCount (addrByte a)
    · obtain ⟨hmode, hdisp, hmore, hread⟩ := hhit h
      refine (if_pos h).mpr ⟨hmode, hdisp.trans (by rw [hw]; rfl), ?_, fun k => (hread k).trans (by rw [hw]; rfl)⟩
      have := marksAdd_trans hindex hmarks hmore
      split_ifs at this ⊢ <;> exact this
    · obtain ⟨hunknown, hmore⟩ := hmiss h
      refine (if_neg h).mpr ⟨hunknown, ?_⟩
      have := marksAdd_trans hindex hmarks hmore
      split_ifs at this ⊢ <;> exact this
  case lost =>
    intro hp hc hmode
    obtain ⟨hw, hm⟩ := lost_txCommand_effect 0x44 (s := u) (t := w) (by rw [hrxu]; exact hp) (by rw [hclku]; exact hc)
      ⟨rfl, rfl⟩
    rw [hrxu] at hw
    have hidlew : ReceiverIdle w := ⟨by rw [hw], hclk⟩
    obtain ⟨hphase, hunknown, hmore⟩ := idle_unknown_write_effect (addrByte a) v [] hidlew (by rw [hw]; exact hmode) hwire
    refine ⟨hphase, hunknown, ?_⟩
    have := marksAdd_trans hindex (marksAdd_trans (prepare_reqIndex _ s) hu hm) hmore
    split_ifs at this ⊢ <;> exact this

/-! ### The frame write -/

/-- A frame write at an idle receiver: the bytes from offset 0 where one is given and all fit, else an unknown controller. -/
theorem idle_txFrame_effect (bytes : List Byte) {s t : State} (hidle : ReceiverIdle s)
    (ht : SameWire t (emitAll (txFrame bytes) s)) :
    t.rx.phase = .idle ∧
      (if 1 ≤ bytes.length ∧ bytes.length ≤ s.cfg.addrCount then
        t.rx.mode = some .auto ∧ t.rx.disp = s.rx.disp ∧ MarksAdd s t [] ∧
        ∀ k, Memory.read t.rx.ram k = if k < bytes.length then bytes[k]? else Memory.read s.rx.ram k
       else ControllerUnknown t ∧ MarksAdd s t [.controllerUndefined]) := by
  obtain ⟨hrx, hmarks⟩ := ht
  rw [emitAll_txFrame bytes s hidle.1 hidle.2] at hrx hmarks
  dsimp only at hrx hmarks
  rw [afterFrame_eq] at hrx hmarks
  by_cases h : 1 ≤ bytes.length ∧ bytes.length ≤ s.cfg.addrCount
  · rw [if_pos h] at hrx hmarks ⊢
    refine ⟨by rw [hrx], by rw [hrx], by rw [hrx], hmarks, fun k => ?_⟩
    rw [hrx]
    refine (Memory.read_writeList 0 k bytes s.rx.ram).trans ?_
    simp only [Nat.zero_le, true_and, Nat.zero_add, Nat.sub_zero]
  · rw [if_neg h] at hrx hmarks ⊢
    exact ⟨by rw [hrx], controllerUnknown_of_empty (by rw [hrx]) (by rw [hrx]) (by rw [hrx]), hmarks⟩

/-- A frame write at a lost receiver that knows no address mode. -/
theorem lost_txFrame_effect (bytes : List Byte) {s t : State} (hp : s.rx.phase = .lost) (hc : s.clk = some true)
    (hm : s.rx.mode = none) (ht : SameWire t (emitAll (txFrame bytes) s)) :
    t.rx.phase = .idle ∧ ControllerUnknown t ∧ MarksAdd s t [.controllerUndefined] := by
  obtain ⟨hrx, hmarks⟩ := ht
  rw [emitAll_txFrame_lost bytes s hp hc hm] at hrx hmarks
  exact ⟨by rw [hrx], controllerUnknown_of_empty (by rw [hrx]) (by rw [hrx]) (by rw [hrx]), hmarks⟩

theorem frameEvents_length (bytes : List Byte) : (frameEvents bytes).length = 58 + 24 * bytes.length := by
  rw [← txFrame_eq_frameEvents, txFrame_length]

/-- Both requests of O28 are one frame write. -/
theorem frameWrite_sentState {i : Instr} {bytes : List Byte} {s : State} (hsends : sends i = true)
    (hrequest : i.isRequest = true) (hmoves : movesSequencer i = false) (hio : NoIoFaults s) (hready : Ready s)
    (hprepare : prepare i s = s) (hevents : sentEvents s i = txFrame bytes) :
    ∃ t, exec i s = .next t ∧ t.trace = s.trace ++ frameEvents bytes ∧
      t.trace.length = s.trace.length + (58 + 24 * bytes.length) ∧
      LinesHigh t ∧ AnsweredOk s t ∧ SameEngine s t ∧ SameSequencer s t ∧ s.marks <+: t.marks ∧
      (ReceiverIdle s → t.rx.phase = .idle ∧
        (if 1 ≤ bytes.length ∧ bytes.length ≤ s.cfg.addrCount then
          t.rx.mode = some .auto ∧ t.rx.disp = s.rx.disp ∧ MarksAdd s t [] ∧
          ∀ k, Memory.read t.rx.ram k = if k < bytes.length then bytes[k]? else Memory.read s.rx.ram k
         else ControllerUnknown t ∧ MarksAdd s t [.controllerUndefined])) ∧
      (s.rx.phase = .lost → s.clk = some true → s.rx.mode = none →
        t.rx.phase = .idle ∧ ControllerUnknown t ∧ MarksAdd s t [.controllerUndefined]) := by
  have hwire := sameWire_sentState i s
  have hengine := sameEngine_sentState hmoves s
  have hmarks := prefix_marks_sentState i s
  have hlines : LinesHigh (sentState i s) := linesHigh_sentState (by rw [hevents]; exact linesHigh_txFrame _ _)
  rw [hprepare] at hwire hengine hmarks
  rw [hevents] at hwire
  have htrace : (sentState i s).trace = s.trace ++ frameEvents bytes := by
    rw [sentState_trace hsends hrequest, ← sentEvents_eq_requestEvents hsends hrequest, hevents, txFrame_eq_frameEvents]
  exact ⟨sentState i s, exec_of_sends_noFault hsends (fun _ => hready) hio, htrace,
    by rw [htrace, List.length_append, frameEvents_length], hlines, answeredOk_sentState hrequest s, hengine,
    sameSequencer_sentState hmoves s, hmarks, fun hidle => idle_txFrame_effect bytes hidle hwire,
    fun hp hc hm => lost_txFrame_effect bytes hp hc hm hwire⟩

/-- Settles O28: `CLEAR` is the frame write of `FRAME_N` zeros. -/
theorem frameWriteResult : Obligations.FrameWriteResult := by
  rintro i bytes s hio hready (rfl | ⟨rfl, rfl⟩)
  · exact frameWrite_sentState rfl rfl rfl hio hready rfl rfl
  · exact frameWrite_sentState rfl rfl rfl hio hready rfl rfl

/-! ### `CLEAR` twice -/

theorem Memory.write_write (a : Nat) (v w : Byte) (m : Memory) :
    Memory.write a v (Memory.write a w m) = Memory.write a v m := by
  induction m with
  | nil => simp [Memory.write]
  | cons c m ih =>
    by_cases hlt : a < c.1
    · simp [Memory.write, hlt]
    · by_cases heq : a = c.1
      · simp [Memory.write, heq]
      · simp [Memory.write, hlt, heq, ih]

theorem Memory.write_comm {a b : Nat} (h : a < b) (v w : Byte) (m : Memory) :
    Memory.write a v (Memory.write b w m) = Memory.write b w (Memory.write a v m) := by
  induction m with
  | nil => simp [Memory.write, h, Nat.not_lt_of_gt h, Nat.ne_of_gt h]
  | cons c m ih =>
    have hba : ¬ b < a := Nat.not_lt_of_gt h
    have hne : b ≠ a := Nat.ne_of_gt h
    obtain hb | hb | hb := Nat.lt_trichotomy b c.1
    · simp [Memory.write, hb, h, hba, hne, h.trans hb]
    · simp [Memory.write, ← hb, h, hba, hne]
    · have hbc : ¬ b < c.1 := Nat.not_lt_of_gt hb
      have hbc' : b ≠ c.1 := Nat.ne_of_gt hb
      by_cases ha : a < c.1
      · simp [Memory.write, hbc, hbc', ha, hba, hne]
      · by_cases ha' : a = c.1
        · subst ha'
          simp [Memory.write, hbc, hbc']
        · simp [Memory.write, hbc, hbc', ha, ha', ih]

theorem Memory.writeList_write_comm {a b : Nat} (h : a < b) (v : Byte) (vs : List Byte) (m : Memory) :
    Memory.write a v (Memory.writeList b vs m) = Memory.writeList b vs (Memory.write a v m) := by
  induction vs generalizing b m with
  | nil => rfl
  | cons w vs ih => rw [Memory.writeList, Memory.writeList, ih (Nat.lt_succ_of_lt h), Memory.write_comm h]

/-- Writing the same bytes again changes nothing, in any list of cells. -/
theorem Memory.writeList_writeList (a : Nat) (vs : List Byte) (m : Memory) :
    Memory.writeList a vs (Memory.writeList a vs m) = Memory.writeList a vs m := by
  induction vs generalizing a m with
  | nil => rfl
  | cons v vs ih =>
    rw [Memory.writeList, Memory.writeList, Memory.writeList_write_comm (Nat.lt_succ_self a), Memory.write_write, ih]

/-- A frame write that takes effect leaves the receiver as a second one leaves it. -/
theorem afterFrame_afterFrame {n : Nat} {bytes : List Byte} (h : 1 ≤ bytes.length ∧ bytes.length ≤ n) (r : Receiver) :
    (afterFrame n bytes (afterFrame n bytes r).1).1 = (afterFrame n bytes r).1 := by
  simp only [afterFrame_eq, if_pos h, Memory.writeList_writeList]

/-- The receiver after a `CLEAR`. -/
theorem sentState_clear_rx {s : State} (hidle : ReceiverIdle s) :
    (sentState .clear s).rx = (afterFrame s.cfg.addrCount (List.replicate s.cfg.frameN 0) s.rx).1 := by
  rw [(sameWire_sentState .clear s).1]
  exact congrArg State.rx (emitAll_txFrame (List.replicate s.cfg.frameN 0) s hidle.1 hidle.2)

/-- Settles O29: the state after the first `CLEAR` is again ready and idle, and has the same parameters. -/
theorem clearIsIdempotent : Obligations.ClearIsIdempotent := by
  intro s t u hio hready hidle hone hle ht hu
  have hlen : 1 ≤ (List.replicate s.cfg.frameN (0 : Byte)).length ∧
      (List.replicate s.cfg.frameN (0 : Byte)).length ≤ s.cfg.addrCount := by
    rw [List.length_replicate]
    exact ⟨hone, hle⟩
  obtain rfl := next_inj ((exec_of_sends_noFault (i := .clear) rfl (fun _ => hready) hio).symm.trans ht)
  have hcfg : (sentState .clear s).cfg = s.cfg := (samePort_of_exec ht).1
  obtain ⟨-, -, hinit, hcorrupt⟩ : SameEngine s (sentState .clear s) := sameEngine_sentState (i := .clear) rfl s
  have hready' : Ready (sentState .clear s) := ⟨hinit.trans hready.1, hcorrupt.trans hready.2⟩
  have hio' : NoIoFaults (sentState .clear s) := by
    rw [NoIoFaults, hcfg]
    exact hio
  obtain rfl := next_inj ((exec_of_sends_noFault (i := .clear) rfl (fun _ => hready') hio').symm.trans hu)
  have hrx := sentState_clear_rx hidle
  have hidle' : ReceiverIdle (sentState .clear s) := by
    refine ⟨?_, (linesHigh_sentState (i := .clear) (linesHigh_txFrame _ s)).1⟩
    rw [hrx, afterFrame_eq, if_pos hlen]
  refine ⟨?_, requestEvents s .clear, sentState_trace rfl rfl s, ?_⟩
  · rw [sentState_clear_rx hidle', hcfg, hrx, afterFrame_afterFrame hlen]
  · rw [sentState_trace rfl rfl, requestEvents, requestEvents, hcfg]

/-! ### `INIT` -/

/-- The first three events of `INIT` (R130). -/
def idleCue : List Event := [.setClk false, .setClk true, .setDat true]

/-- The data rise with the clock high leaves a lost or idle receiver idle, and both lines high (R63, R64). -/
theorem idleCue_effect {s : State} (hp : s.rx.phase = .lost ∨ s.rx.phase = .idle) :
    (emitAll idleCue s).rx = { s.rx with phase := .idle } ∧ MarksAdd s (emitAll idleCue s) [] := by
  obtain hp | hp := hp
  · simp [MarksAdd, idleCue, emitAll_cons, rxEvent_of_lost _ _ _ _ hp, rxInLost, clkAfter]
  · simp [MarksAdd, idleCue, emitAll_cons, rxEvent_of_idle _ _ _ _ hp, rxInIdle, ← hp]

theorem initEvents_eq (s : State) :
    initEvents s = idleCue ++ (txFrame (List.replicate s.cfg.frameN 0) ++ txDisplayControl s) := rfl

theorem requestEvents_init_length (active : Bool) (level : Half) (s : State) :
    (requestEvents s (.init active level)).length = 90 + 24 * s.cfg.frameN := by
  rw [← initEvents_eq_requestEvents, initEvents_eq]
  simp [idleCue, txDisplayControl]
  omega

/-- What a lost or idle receiver makes of `INIT`: idle, the frame of zeros if it fits, and the display register. -/
theorem initEvents_effect {s t : State} (hp : s.rx.phase = .lost ∨ s.rx.phase = .idle)
    (ht : SameWire t (emitAll (initEvents s) s)) :
    t.rx.phase = .idle ∧ t.rx.disp = some (s.intensity, s.active) ∧
      (if 1 ≤ s.cfg.frameN ∧ s.cfg.frameN ≤ s.cfg.addrCount then
        t.rx.mode = some .auto ∧ MarksAdd s t [] ∧
        ∀ k, Memory.read t.rx.ram k = if k < s.cfg.frameN then some 0 else Memory.read s.rx.ram k
       else t.rx.mode = none ∧ MarksAdd s t [.controllerUndefined] ∧ ∀ k, Memory.read t.rx.ram k = none) := by
  rw [initEvents_eq, emitAll_append, emitAll_append, txDisplayControl] at ht
  let u := emitAll idleCue s
  let w := emitAll (txFrame (List.replicate s.cfg.frameN 0)) u
  obtain ⟨hrxu, hmu⟩ : u.rx = { s.rx with phase := .idle } ∧ MarksAdd s u [] := idleCue_effect hp
  have hidleu : ReceiverIdle u := ⟨by rw [hrxu], rfl⟩
  have hcfgu : u.cfg = s.cfg := emitAll_cfg _ _
  have hindexu : u.reqIndex = s.reqIndex := emitAll_reqIndex _ _
  obtain ⟨hphasew, hw⟩ := idle_txFrame_effect (List.replicate s.cfg.frameN 0) hidleu (t := w) ⟨rfl, rfl⟩
  have hidlew : ReceiverIdle w := ⟨hphasew, (linesHigh_txFrame _ _).1⟩
  have hindexw : w.reqIndex = s.reqIndex := (emitAll_reqIndex _ _).trans hindexu
  obtain ⟨hphase, hdisp, hmode, hram, hm⟩ := idle_displayControl_effect s.intensity s.active hidlew ht
  refine ⟨hphase, hdisp, ?_⟩
  rw [List.length_replicate, hcfgu] at hw
  by_cases h : 1 ≤ s.cfg.frameN ∧ s.cfg.frameN ≤ s.cfg.addrCount
  · rw [if_pos h] at hw ⊢
    obtain ⟨hmodew, -, hmw, hreadw⟩ := hw
    refine ⟨hmode.trans hmodew, marksAdd_trans hindexw (marksAdd_trans hindexu hmu hmw) hm, fun k => ?_⟩
    rw [hram k, hreadw k, hrxu]
    split_ifs with hk
    · exact List.getElem?_replicate_of_lt hk
    · rfl
  · rw [if_neg h] at hw ⊢
    obtain ⟨⟨hreadw, hmodew, -⟩, hmw⟩ := hw
    exact ⟨hmode.trans hmodew, marksAdd_trans hindexw (marksAdd_trans hindexu hmu hmw) hm, fun k => (hram k).trans (hreadw k)⟩

theorem sequencerCleared_initRegisters (active : Bool) (level : Half) (s : State) :
    SequencerCleared (initRegisters active level s) := ⟨rfl, rfl, rfl, rfl, rfl, rfl, rfl⟩

theorem sequencerCleared_congr {u t : State} (hsame : SameSequencer u t) (h : SequencerCleared u) : SequencerCleared t := by
  obtain ⟨hstatus, hmsg, hdelay, hpair, hoff, hsent, herr⟩ := hsame
  simpa only [SequencerCleared, hstatus, hmsg, hdelay, hpair, hoff, hsent, herr] using h

/-- Settles O22: the registers, the events, and then what a lost or idle receiver makes of the three procedures. -/
theorem initResult : Obligations.InitResult := by
  intro active level s hio
  have hwire := sameWire_sentState (.init active level) s
  have hexec : exec (.init active level) s = .next (sentState (.init active level) s) :=
    exec_of_sends_noFault rfl (fun h => absurd h Bool.false_ne_true) hio
  have htrace : (sentState (.init active level) s).trace = s.trace ++ requestEvents s (.init active level) :=
    sentState_trace rfl rfl s
  have hintensity : (sentState (.init active level) s).intensity = clampLevel (sint16 level) :=
    (finish_intensity _ _).trans (emitAll_intensity _ (initRegisters active level s))
  have hactive : (sentState (.init active level) s).active = active :=
    (finish_active _ _).trans (emitAll_active _ (initRegisters active level s))
  refine ⟨sentState (.init active level) s, hexec, htrace, ?length, linesHigh_sentState ?lines, ?intensity, hactive, rfl, rfl,
    ?cleared, answeredOk_sentState rfl s, prefix_marks_sentState (.init active level) s, ?receiver⟩
  case length => rw [htrace, List.length_append, requestEvents_init_length]
  case lines =>
    rw [show sentEvents s (.init active level) = initEvents (initRegisters active level s) from rfl, initEvents_eq,
      ← List.append_assoc, emitAll_append]
    exact linesHigh_txCommand _ _
  case intensity =>
    rw [hintensity]
    exact clampLevel_toNat level.toInt
  case cleared =>
    exact sequencerCleared_congr (sameSequencer_trans (sameSequencer_emitAll _ _) (sameSequencer_finish _ _))
      (sequencerCleared_initRegisters active level s)
  case receiver =>
    intro hp
    rw [hintensity]
    exact initEvents_effect (s := initRegisters active level s) hp hwire

/-! ### What makes the controller known (R73) -/

/-- A transaction writes the display register only as a display command, and the RAM only as an addressed write. -/
theorem rxApply_known (n : Nat) (bytes : List Byte) (r : Receiver) :
    ((rxApply n bytes r).1.disp = r.disp ∨ (rxApply n bytes r).1.disp = none ∨
      ∃ c, bytes = [c] ∧ c.toNat / 16 = 8) ∧
    ∀ k, Memory.read (rxApply n bytes r).1.ram k = Memory.read r.ram k ∨ Memory.read (rxApply n bytes r).1.ram k = none ∨
      ∃ c d ds, bytes = c :: d :: ds ∧ c.toNat / 16 = 12 := by
  match bytes with
  | [] => exact ⟨.inr (.inl rfl), fun k => .inr (.inl rfl)⟩
  | [c] =>
    rw [show rxApply n [c] r = rxCommand c r from rfl, rxCommand_eq]
    split_ifs with h40 h44 h8
    · exact ⟨.inl rfl, fun k => .inl rfl⟩
    · exact ⟨.inl rfl, fun k => .inl rfl⟩
    · exact ⟨.inr (.inr ⟨c, rfl, h8⟩), fun k => .inl rfl⟩
    · exact ⟨.inr (.inl rfl), fun k => .inr (.inl rfl)⟩
  | c :: d :: ds =>
    rw [show rxApply n (c :: d :: ds) r = rxWrite n c (d :: ds) r from rfl]
    by_cases h : AddressedWriteFits n c (d :: ds) r.mode
    · rw [rxWrite_of_fits h]
      exact ⟨.inl rfl, fun k => .inr (.inr ⟨c, d, ds, rfl, h.1⟩)⟩
    · rw [rxWrite_of_not_fits h]
      exact ⟨.inr (.inl rfl), fun k => .inr (.inl rfl)⟩

/-- Settles O56: only the last event of a terminator gives a transaction its effect. -/
theorem onlyCommandsMakeControllerKnown : Obligations.OnlyCommandsMakeControllerKnown := by
  intro n clk dio e r
  obtain ⟨-, hram, -, hdisp⟩ | herror | ⟨hphase, hevent, happly⟩ := rxEvent_cases n clk dio e r
  · exact ⟨.inl hdisp, fun k => .inl (by rw [hram])⟩
  · rw [herror]
    exact ⟨.inr (.inl rfl), fun k => .inr (.inl rfl)⟩
  · rw [happly]
    obtain ⟨hdisp, hram⟩ := rxApply_known n r.bytes { r with phase := .idle }
    exact ⟨hdisp.imp_right (Or.imp_right fun h => ⟨hphase, hevent, h⟩),
      fun k => (hram k).imp_right (Or.imp_right fun h => ⟨hphase, hevent, h⟩)⟩

/-! ### The frame write as a wire program -/

theorem emitAll_takeInput (es : List Event) (rest : List PortItem) (s : State) :
    emitAll es (takeInput rest s) = takeInput rest (emitAll es s) := by
  induction es generalizing s with
  | nil => rfl
  | cons e es ih =>
    rw [emitAll_cons, emitAll_cons, ← ih]
    rfl

theorem noIoFaults_takeInput_emitAll (es : List Event) (rest : List PortItem) {s : State} (h : NoIoFaults s) :
    NoIoFaults (takeInput rest (emitAll es s)) := by
  rw [NoIoFaults, takeInput_cfg, emitAll_cfg]
  exact h

/-- One wire item from the port is its events. -/
theorem step_of_wire {s : State} {x : WireItem} {rest : List PortItem} {i : Instr} (hio : NoIoFaults s)
    (hin : s.input = .wire x :: rest) (hdecode : decodeWire x = .ok i) (hi : i.isRequest = false) :
    step s = .next (takeInput rest (emitAll (sentEvents s i) s)) := by
  have hexec : exec i (takeInput rest s) = .next (emitAll (sentEvents (takeInput rest s) i) (takeInput rest s)) :=
    exec_of_wire hi hio
  have hevents : sentEvents (takeInput rest s) i = sentEvents s i := by
    cases i with
    | dataAuto | dataFixed | dispCtrl | addr | data => rfl
    | _ => cases hi
  rw [step_of_decode hin (show decode (.wire x) = .ok i from hdecode), hexec, hevents, emitAll_takeInput]
  rfl

/-- The terminator from the port. -/
theorem step_of_stop {s : State} {rest : List PortItem} (hio : NoIoFaults s) (hin : s.input = .wire .stop :: rest) :
    step s = .next (takeInput rest (emitAll txTerm s)) := by
  rw [step_of_undecoded hin (show decode (.wire .stop) = .error .terminator from rfl), ← emitAll_takeInput]
  exact congrArg _ (transmit_noFault _ _ _ hio)

/-- A run of data bytes and the terminator. -/
theorem run_data_stop (bytes : List Byte) (rest : List PortItem) {s : State} (hio : NoIoFaults s)
    (hin : s.input = (bytes.map fun b => .wire (.later b)) ++ .wire .stop :: rest) :
    Sys2Proof.core.run (bytes.length + 1) s = .next (takeInput rest (emitAll (txBytes bytes ++ txTerm) s)) := by
  induction bytes generalizing s with
  | nil => exact (core_run_succ 0 (step_of_stop hio hin)).trans (core_run_zero _)
  | cons b bytes ih =>
    have hstep := step_of_wire (i := .data b) hio hin rfl rfl
    have hrun := ih (s := takeInput _ (emitAll (txByte b) s)) (noIoFaults_takeInput_emitAll _ _ hio) rfl
    rw [List.length_cons, core_run_succ _ hstep]
    refine hrun.trans ?_
    rw [emitAll_takeInput, txBytes, List.append_assoc, emitAll_append (txByte b)]
    rfl

/-- An answer taken back leaves the state it was given in. -/
theorem respond_forget {st : Status} {result : List Byte} {t : State} {r : Option Response} (h : t.response = r) :
    { respond st result t with response := r } = t := by
  subst h
  rfl

/-- Settles O44: two items open the frame write's two transactions, and the rest runs byte by byte. -/
theorem frameWriteIsItsWireProgram : Obligations.FrameWriteIsItsWireProgram := by
  intro bytes rest s u hio hready hin hexec
  have hsend : exec (.sendFrame bytes) (takeInput rest s) = .next (respond .ok [] (emitAll (txFrame bytes) (takeInput rest s))) :=
    exec_of_sends_noFault (i := .sendFrame bytes) rfl (fun _ => hready) hio
  obtain rfl := next_inj (hsend.symm.trans hexec)
  let data : List PortItem := (bytes.map fun b => .wire (.later b)) ++ .wire .stop :: rest
  let v := emitAll (txCommand 0x40) s
  let w := emitAll (startCue :: txByte 0xC0) (takeInput (.wire (.first 0xC0) :: data) v)
  have hiov : NoIoFaults (takeInput (.wire (.first 0xC0) :: data) v) := noIoFaults_takeInput_emitAll _ _ hio
  have hauto : step s = .next (takeInput (.wire (.first 0xC0) :: data) v) :=
    step_of_wire (i := .dataAuto) hio hin rfl rfl
  have haddr : step (takeInput (.wire (.first 0xC0) :: data) v) = .next (takeInput data w) :=
    step_of_wire (i := .addr 0) (x := .first 0xC0) hiov rfl rfl rfl
  have hrun := run_data_stop bytes rest (s := takeInput data w) (noIoFaults_takeInput_emitAll _ _ hiov) rfl
  have hframe : txFrame bytes = txCommand 0x40 ++ ((startCue :: txByte 0xC0) ++ (txBytes bytes ++ txTerm)) := by
    simp [txFrame]
  have hsame : takeInput rest (emitAll (txBytes bytes ++ txTerm) (takeInput data w)) =
      takeInput rest (emitAll (txFrame bytes) s) := by
    rw [hframe, emitAll_append (txCommand 0x40), emitAll_append (startCue :: txByte 0xC0)]
    simp only [w, emitAll_takeInput]
    rfl
  rw [core_run_succ _ hauto, core_run_succ _ haddr, hrun, hsame, emitAll_takeInput]
  exact congrArg _ (respond_forget (by simp)).symm

end Sys2Proof.Machine

/-! The wire between two steps (R36, R62, R65, R67): the receiver is lost and knows nothing, idle with both lines high, or at a
byte boundary of a transaction that wire items opened. -/

namespace Sys2Proof.Machine

open Stated

/-! ### What a lost receiver knows -/

/-- A transaction's effect leaves the phase. -/
theorem rxApply_phase (n : Nat) (bytes : List Byte) (r : Receiver) : (rxApply n bytes r).1.phase = r.phase := by
  obtain h | ⟨m, h⟩ | ⟨d, h⟩ | ⟨a, d, -, h⟩ := rxApply_cases n bytes r
  · rw [h]
    rfl
  · rw [h]
  · rw [h]
  · rw [h]

/-- A receiver is lost after an event only if it was, and took nothing of it, or by an error, which has a mark (R63, R67). -/
theorem rxEvent_lost_cases (n : Nat) (clk dio : Option Bool) (e : Event) (r : Receiver)
    (h : (rxEvent n clk dio e r).1.phase = .lost) :
    r.phase = .lost ∧ rxEvent n clk dio e r = (r, false) ∨ rxEvent n clk dio e r = (rxError r, true) := by
  obtain ⟨phase, nbits, acc, bytes, ram, mode, disp⟩ := r
  cases phase with
  | lost =>
    rw [rxEvent_of_lost n clk dio e rfl] at h ⊢
    by_cases hres : e = .setDat true ∧ clk = some true
    · obtain ⟨rfl, rfl⟩ := hres
      cases h
    · exact .inl ⟨rfl, rxInLost_of_not_resync hres _⟩
  | idle =>
    right
    rcases e with b | b | ms | l
    · cases h
    · cases b
      · simp only [rxEvent, rxInIdle] at h ⊢
        split_ifs at h ⊢
        · cases h
        · rfl
      · cases h
    · cases h
    · rfl
  | txB =>
    right
    rcases e with b | b | ms | l
    · cases b
      · cases h
      · rfl
    · cases b
      · by_cases hn : nbits = 0
        · subst hn
          cases h
        · exact if_neg hn
      · rfl
    · rfl
    · rfl
  | txL =>
    right
    rcases e with b | b | ms | l
    · cases b
      · cases h
      · cases dio with
        | none => rfl
        | some v => exact absurd ((rxSample_phase v _).symm.trans h) (by decide)
    · cases h
    · rfl
    · rfl
  | txT1 =>
    right
    rcases e with b | b | ms | l
    · cases b
      · cases h
      · rfl
    · rfl
    · rfl
    · rfl
  | txT2 =>
    right
    rcases e with b | b | ms | l
    · cases b
      · rfl
      · cases h
    · rfl
    · rfl
    · rfl
  | txT3 =>
    right
    rcases e with b | b | ms | l
    · rfl
    · cases b
      · rfl
      · cases (rxApply_phase n bytes _).symm.trans h
    · rfl
    · rfl

/-- A receiver that is lost has forgotten the controller, and once `INIT` has completed it has left a mark (R62, R67, R220). -/
def LostForgets (s : State) : Prop :=
  s.rx.phase = .lost → s.rx.ram = [] ∧ s.rx.mode = none ∧ s.rx.disp = none ∧ (s.initDone = true → s.marks ≠ [])

theorem lostForgets_emit (e : Event) (s : State) (h : LostForgets s) : LostForgets (emit e s) := by
  intro hlost
  obtain ⟨hp, hsame⟩ | herror := rxEvent_lost_cases s.cfg.addrCount s.clk s.dio e s.rx hlost
  · rw [emit_rx, emit_marks, hsame]
    exact h hp
  · rw [emit_rx, emit_marks, herror]
    exact ⟨rfl, rfl, rfl, fun _ => List.append_ne_nil_of_right_ne_nil _ (List.cons_ne_nil _ _)⟩

/-- Where a receiver stands between two steps. -/
def AtRest (s : State) : Prop :=
  s.rx.phase = .lost ∨ s.rx.phase = .idle ∧ LinesHigh s ∨
    s.rx.phase = .txB ∧ s.rx.nbits = 0 ∧ s.rx.acc = 0 ∧ s.rx.bytes ≠ [] ∧ s.clk = some true

theorem wireLegal_iff (s : State) : WireLegal s ↔ LostForgets s ∧ AtRest s := by
  constructor
  · rintro (⟨hp, hknows⟩ | ⟨hp, hlines⟩ | ⟨hp, hopen⟩)
    · exact ⟨fun _ => hknows, .inl hp⟩
    · exact ⟨fun h => absurd (hp.symm.trans h) (by decide), .inr (.inl ⟨hp, hlines⟩)⟩
    · exact ⟨fun h => absurd (hp.symm.trans h) (by decide), .inr (.inr ⟨hp, hopen⟩)⟩
  · rintro ⟨hforgets, hp | ⟨hp, hlines⟩ | ⟨hp, hopen⟩⟩
    · exact .inl ⟨hp, hforgets hp⟩
    · exact .inr (.inl ⟨hp, hlines⟩)
    · exact .inr (.inr ⟨hp, hopen⟩)

/-! ### Events that lead from rest to rest -/

/-- Events that leave the receiver at rest if they find it so. -/
def KeepsRest (es : List Event) : Prop := ∀ s, AtRest s → AtRest (emitAll es s)

theorem KeepsRest.append {es fs : List Event} (h : KeepsRest es) (h' : KeepsRest fs) : KeepsRest (es ++ fs) := fun s hs => by
  rw [emitAll_append]
  exact h' _ (h s hs)

theorem atRest_of_rxError {s : State} {r : Receiver} (h : s.rx = rxError r) : AtRest s := .inl (by rw [h]; rfl)

theorem keepsRest_txByte (b : Byte) : KeepsRest (txByte b) := by
  rintro s (hp | ⟨hp, -⟩ | ⟨hp, hn, ha, hbytes, hc⟩)
  · exact .inl (by rw [(sameWire_txByte_lost b hp).1]; exact hp)
  · obtain ⟨hclk, hdio⟩ := emitAll_txByte_levels b s
    by_cases hb : b = 0xFF
    · refine .inr (.inl ⟨by rw [((idle_txByte_effect b hp).1 hb).1]; exact hp, hclk, hdio.trans ?_⟩)
      rw [hb]
      rfl
    · exact atRest_of_rxError ((idle_txByte_effect b hp).2 hb).1
  · obtain ⟨hrx, -⟩ := open_byte_effect b hp hn ha
    exact .inr (.inr ⟨by rw [hrx]; exact hp, by rw [hrx]; exact hn, by rw [hrx]; exact ha,
      by rw [hrx]; exact List.append_ne_nil_of_right_ne_nil _ (List.cons_ne_nil _ _), (emitAll_txByte_levels b s).1⟩)

theorem keepsRest_txTerm : KeepsRest txTerm := by
  rintro s (hp | ⟨hp, hc, -⟩ | ⟨hp, hn, -, -, -⟩)
  · exact .inr (.inl ⟨by rw [emitAll_txTerm_lost s hp]; rfl, emitAll_txTerm_levels s⟩)
  · obtain ⟨⟨r, hrx⟩, -⟩ := idle_txTerm_effect ⟨hp, hc⟩
    exact atRest_of_rxError hrx
  · refine .inr (.inl ⟨?_, emitAll_txTerm_levels s⟩)
    rw [emitAll_txTerm s hp hn]
    exact rxApply_phase _ _ _

theorem keepsRest_sleep (ms : Half) : KeepsRest [.sleep ms] := by
  rintro s (hp | ⟨hp, hlines⟩ | ⟨hp, -⟩)
  · exact .inl (by simp [emitAll_cons, rxEvent_of_lost _ _ _ _ hp, rxInLost, hp])
  · exact .inr (.inl ⟨by simp [emitAll_cons, rxEvent_of_idle _ _ _ _ hp, rxInIdle, hp], hlines⟩)
  · exact atRest_of_rxError (r := s.rx) (by simp [emitAll_cons, rxEvent, hp, rxInTxB])

theorem keepsRest_nil : KeepsRest [] := fun _ h => h

/-! A start cue inside an open transaction is taken for the first event of a terminator, and the clock fall and data write that
follow lose the receiver (R65, R66). -/

theorem txT1_of_startCue {s : State} (hp : s.rx.phase = .txB) (hn : s.rx.nbits = 0) :
    (emit startCue s).rx.phase = .txT1 := by
  simp [startCue, rxEvent, hp, rxInTxB, hn]

/-- Anything but a clock rise after the clock fall of a terminator is an error. -/
theorem lost_of_bitSlot_txT1 (v : Bool) {s : State} (hp : s.rx.phase = .txT1) :
    (emitAll (bitSlot v) s).rx.phase = .lost := by
  simp [bitSlot, emitAll_cons, rxEvent, hp, rxInT1, rxInT2, rxError, rxInLost]

theorem txByte_eq_bitSlot_append (b : Byte) : ∃ vs, txByte b = bitSlot (b.getLsbD 0) ++ bitSlots vs := by
  rw [txByte_eq_bitSlots, List.range_succ_eq_map, List.map_cons]
  exact ⟨_, List.flatMap_cons⟩

theorem lost_of_txByte_txT1 (b : Byte) {s : State} (hp : s.rx.phase = .txT1) : (emitAll (txByte b) s).rx.phase = .lost := by
  obtain ⟨vs, hvs⟩ := txByte_eq_bitSlot_append b
  have hlost := lost_of_bitSlot_txT1 (b.getLsbD 0) hp
  rw [hvs, emitAll_append, (sameWire_bitSlots_lost vs hlost).1]
  exact hlost

theorem keepsRest_address (b : Byte) : KeepsRest (startCue :: txByte b) := by
  rintro s (hp | ⟨hp, hc, -⟩ | ⟨hp, hn, -⟩)
  · have hp' := (congrArg Receiver.phase (sameWire_startCue_lost hp).1).trans hp
    rw [emitAll_cons]
    exact .inl ((congrArg Receiver.phase (sameWire_txByte_lost b hp').1).trans hp')
  · obtain ⟨hrx, -⟩ := idle_address_effect b ⟨hp, hc⟩
    have hclk : (emitAll (startCue :: txByte b) s).clk = some true := by
      rw [emitAll_cons]
      exact (emitAll_txByte_levels b _).1
    exact .inr (.inr ⟨by rw [hrx], by rw [hrx], by rw [hrx], by rw [hrx]; exact List.cons_ne_nil _ _, hclk⟩)
  · rw [emitAll_cons]
    exact .inl (lost_of_txByte_txT1 b (txT1_of_startCue hp hn))

theorem sameWire_txBytes_lost (bs : List Byte) {s : State} (hp : s.rx.phase = .lost) : SameWire (emitAll (txBytes bs) s) s := by
  induction bs generalizing s with
  | nil => exact ⟨rfl, rfl⟩
  | cons b bs ih =>
    obtain ⟨hrx, hmarks⟩ := sameWire_txByte_lost b hp
    obtain ⟨hrx', hmarks'⟩ := ih (s := emitAll (txByte b) s) (by rw [hrx]; exact hp)
    rw [txBytes, emitAll_append]
    exact ⟨hrx'.trans hrx, hmarks'.trans hmarks⟩

/-- A terminator begun inside a terminator still ends with the data rise that finds a lost receiver. -/
theorem idle_of_txTerm_txT1 {s : State} (hp : s.rx.phase = .txT1) : (emitAll txTerm s).rx.phase = .idle := by
  simp [txTerm, emitAll_cons, rxEvent, hp, rxInT1, rxError, rxInLost, clkAfter]

theorem idle_of_txTerm_lost {s : State} (hp : s.rx.phase = .lost) : (emitAll txTerm s).rx.phase = .idle := by
  rw [emitAll_txTerm_lost s hp]
  rfl

theorem idle_of_txBytes_txTerm_lost (bs : List Byte) {s : State} (hp : s.rx.phase = .lost) :
    (emitAll (txBytes bs ++ txTerm) s).rx.phase = .idle := by
  rw [emitAll_append]
  exact idle_of_txTerm_lost ((congrArg Receiver.phase (sameWire_txBytes_lost bs hp).1).trans hp)

/-- A whole transaction ends with an idle receiver, wherever it finds a receiver at rest. -/
theorem idle_of_txTransaction (bs : List Byte) {s : State} (h : AtRest s) :
    (emitAll (txTransaction bs) s).rx.phase = .idle := by
  obtain hp | ⟨hp, hc, -⟩ | ⟨hp, hn, -⟩ := h
  · exact idle_of_txBytes_txTerm_lost bs (s := emit startCue s)
      ((congrArg Receiver.phase (sameWire_startCue_lost hp).1).trans hp)
  · rw [emitAll_txTransaction bs s hp hc]
    exact afterTransaction_phase _ _ _
  · have hp' := txT1_of_startCue hp hn
    rw [txTransaction, emitAll_cons]
    cases bs with
    | nil => exact idle_of_txTerm_txT1 hp'
    | cons b bs =>
      rw [txBytes, List.append_assoc, emitAll_append]
      exact idle_of_txBytes_txTerm_lost bs (lost_of_txByte_txT1 b hp')

theorem keepsRest_txTransaction (bs : List Byte) : KeepsRest (txTransaction bs) := fun _ h =>
  .inr (.inl ⟨idle_of_txTransaction bs h, linesHigh_txTransaction bs _⟩)

theorem keepsRest_txCommand (c : Byte) : KeepsRest (txCommand c) := by
  rw [txCommand_eq]
  exact keepsRest_txTransaction [c]

theorem keepsRest_txFrame (bs : List Byte) : KeepsRest (txFrame bs) := by
  rw [txFrame_eq]
  exact (keepsRest_txTransaction _).append (keepsRest_txTransaction _)

/-- The clock fall and rise inside an open transaction are a sampled bit, so the data rise that follows is an error (R65). -/
theorem keepsRest_idleCue : KeepsRest idleCue := by
  rintro s (hp | ⟨hp, -⟩ | ⟨hp, hn, -, -, hc⟩)
  · exact .inr (.inl ⟨by rw [(idleCue_effect (.inl hp)).1], rfl, rfl⟩)
  · exact .inr (.inl ⟨by rw [(idleCue_effect (.inr hp)).1], rfl, rfl⟩)
  · cases hdio : s.dio with
    | none =>
      refine .inr (.inl ⟨?_, rfl, rfl⟩)
      simp [idleCue, emitAll_cons, rxEvent, hp, rxInTxB, rxInTxL, hdio, dioAfter, clkAfter, rxError, rxInLost]
    | some v =>
      refine .inl ?_
      simp [idleCue, emitAll_cons, rxEvent, hp, rxInTxB, rxInTxL, hdio, dioAfter, rxError]

theorem keepsRest_initEvents (s : State) : KeepsRest (initEvents s) := by
  rw [initEvents_eq]
  exact keepsRest_idleCue.append ((keepsRest_txFrame _).append (keepsRest_txCommand _))

/-- `INIT` ends with a transaction. -/
theorem idle_of_initEvents (u : State) {s : State} (h : AtRest s) : (emitAll (initEvents u) s).rx.phase = .idle := by
  rw [initEvents_eq, ← List.append_assoc, emitAll_append, txDisplayControl, txCommand_eq]
  exact idle_of_txTransaction _ ((keepsRest_idleCue.append (keepsRest_txFrame _)) s h)

theorem keepsRest_sentEvents {i : Instr} (hi : sends i = true) (s : State) : KeepsRest (sentEvents s i) := by
  cases i with
  | init active level => exact keepsRest_initEvents _
  | sendByte b | data b => exact keepsRest_txByte b
  | sendCommand | setBrightness | setActive | dataAuto | dataFixed | dispCtrl => exact keepsRest_txCommand _
  | sendDataAt a v =>
    rw [show sentEvents s (.sendDataAt a v) = txDataAt a v from rfl, txDataAt_eq]
    exact (keepsRest_txCommand _).append (keepsRest_txTransaction _)
  | sendFrame | clear => exact keepsRest_txFrame _
  | terminate => exact keepsRest_txTerm
  | addr o => exact keepsRest_address _
  | mergeRow | packFrame | scrollStart | scrollStep | scroll | reservedE | reservedF => cases hi

/-! ### A transmission at the wire -/

/-- A completed transmission stands at the wire as its events left it. -/
theorem drive_completed_wire {es : List Event} {s t : State} (h : drive es s = (t, true)) :
    t.rx = (emitAll es s).rx ∧ t.clk = (emitAll es s).clk ∧ t.dio = (emitAll es s).dio ∧ t.marks = (emitAll es s).marks := by
  rw [drive_completed h, takeDraws_eq]
  exact ⟨rfl, rfl, rfl, rfl⟩

/-- A failed pin write loses the receiver (R75). -/
theorem drive_aborted_lost {es : List Event} {s t : State} (h : drive es s = (t, false)) : t.rx.phase = .lost := by
  obtain ⟨-, pre, e, post, line, -, -, rfl⟩ := drive_aborted h
  rw [takeDraws_eq]
  have hfail := failedWriteLosesReceiver s.cfg.addrCount (emitAll pre s).clk (emitAll pre s).dio line (emitAll pre s).rx
  simp only [emit_rx, emitAll_cfg, hfail]
  split_ifs with hp
  · exact hp
  · rfl

theorem wireLegal_congr {s t : State} (hrx : t.rx = s.rx) (hclk : t.clk = s.clk) (hdio : t.dio = s.dio)
    (hinit : t.initDone = s.initDone) (hmarks : s.marks <+: t.marks) (h : WireLegal s) : WireLegal t := by
  have hkept : s.marks ≠ [] → t.marks ≠ [] := fun hne hnil => hne (List.prefix_nil.1 (hnil ▸ hmarks))
  simp only [WireLegal, hrx, hclk, hdio, hinit]
  exact h.imp_left fun ⟨hp, hram, hmode, hdisp, hmark⟩ => ⟨hp, hram, hmode, hdisp, fun hd => hkept (hmark hd)⟩

theorem wireLegal_transmit {b : Bool} {es : List Event} {k : State → State} {s : State} (hes : KeepsRest es)
    (hk : ∀ t, WireLegal t → t.rx = (emitAll es s).rx → WireLegal (k t)) (h : WireLegal s) :
    WireLegal (transmit b es k s) := by
  obtain ⟨hforgets, hrest⟩ := (wireLegal_iff s).1 h
  have hforgets' : LostForgets (drive es s).1 := drive_induct lostForgets_emit (fun _ h => h) es hforgets
  obtain ⟨t, hdrive, heq⟩ | ⟨t, hdrive, heq⟩ := transmit_cases b es k s <;> rw [heq] <;> rw [hdrive] at hforgets'
  · obtain ⟨hrx, hclk, hdio, -⟩ := drive_completed_wire hdrive
    have hrest' : AtRest t := by
      have := hes s hrest
      rwa [AtRest, LinesHigh, ← hrx, ← hclk, ← hdio] at this
    exact hk t ((wireLegal_iff t).2 ⟨hforgets', hrest'⟩) hrx
  · have ht : WireLegal t := (wireLegal_iff t).2 ⟨hforgets', .inl (drive_aborted_lost hdrive)⟩
    exact wireLegal_congr (by simp) (by simp) (by simp) (by simp) (by simp) ht

/-! ### Every step leaves the wire legal -/

theorem prefix_marks_prepare (i : Instr) (s : State) : s.marks <+: (prepare i s).marks :=
  ((after_kept s).prepare i (after_refl s)).1

theorem wireLegal_prepare (i : Instr) {s : State} (h : WireLegal s) : WireLegal (prepare i s) :=
  wireLegal_congr (prepare_rx i s) (prepare_clk i s) (prepare_dio i s) (prepare_initDone i s) (prefix_marks_prepare i s) h

/-- An idle receiver between two high lines is legal whatever `INIT_DONE` is. -/
theorem wireLegal_of_idle {s : State} (hp : s.rx.phase = .idle) (h : WireLegal s) : s.clk = some true ∧ s.dio = some true := by
  obtain ⟨hp', -⟩ | ⟨-, hlines⟩ | ⟨hp', -⟩ := h
  · exact absurd (hp.symm.trans hp') (by decide)
  · exact hlines
  · exact absurd (hp.symm.trans hp') (by decide)

theorem wireLegal_sendOut {i : Instr} (hi : sends i = true) {s : State} (h : WireLegal s) : WireLegal (sendOut i s) := by
  have hprep := wireLegal_prepare i h
  refine wireLegal_transmit (keepsRest_sentEvents hi s) (fun t ht hrx => ?_) hprep
  cases i with
  | init active level =>
    have hrest := ((wireLegal_iff _).1 hprep).2
    have hp : t.rx.phase = .idle := by
      rw [hrx]
      exact idle_of_initEvents _ hrest
    have hlines := wireLegal_of_idle hp ht
    exact .inr (.inl ⟨hp, hlines⟩)
  | _ => exact ht

theorem wireLegal_addMark (k : MarkKind) {s : State} (h : WireLegal s) : WireLegal (addMark k s) :=
  wireLegal_congr (s := s) rfl rfl rfl rfl (List.prefix_append _ _) h

theorem keepsRest_pacing (s : State) : KeepsRest (pacing s) := by
  unfold pacing
  split_ifs
  · exact keepsRest_sleep _
  · exact keepsRest_nil

theorem wireLegal_of_scrollStepOp {s t : State} (h : WireLegal s) (hstep : scrollStepOp s = .next t) : WireLegal t := by
  obtain ⟨-, e, -, rfl⟩ | ⟨-, hbody⟩ := scrollStepOp_cases hstep
  · exact wireLegal_addMark _ h
  · cases hbody with
    | answered => exact h
    | missing => exact wireLegal_addMark _ (s := { s with rStatus := .faulted, rErr := some .missingGlyph }) h
    | frame g1 g2 => exact wireLegal_transmit ((keepsRest_pacing s).append (keepsRest_txFrame _)) (fun _ ht _ => ht) h

theorem wireLegal_of_exec {i : Instr} {s t : State} (h : WireLegal s) (hexec : exec i s = .next t) : WireLegal t := by
  cases ran_of_exec hexec with
  | refused => exact wireLegal_addMark _ h
  | sent hi => exact wireLegal_sendOut hi h
  | answered => exact h
  | failed => exact wireLegal_addMark _ h
  | loaded => exact h
  | stepped hstep => exact wireLegal_of_scrollStepOp h hstep
  | @scrolled msg delay _ _ hloop =>
    have hloaded : WireLegal (loadSequencer msg delay s) := h
    exact scrollLoop_induct (fun _ _ hs hstep => wireLegal_of_scrollStepOp hs hstep) (fun _ hs => hs) hloaded hloop

theorem wireLegal_sendWireItem (x : WireItem) {s : State} (h : WireLegal s) : WireLegal (sendWireItem x s) := by
  cases x with
  | first b => exact wireLegal_transmit (keepsRest_txCommand b) (fun _ ht _ => ht) h
  | later b => exact wireLegal_transmit (keepsRest_txByte b) (fun _ ht _ => ht) h
  | stop => exact wireLegal_transmit keepsRest_txTerm (fun _ ht _ => ht) h

/-- Settles O13: every procedure leads from rest to rest, and losing the receiver leaves its mark. -/
theorem stepKeepsWireLegal : Obligations.StepKeepsWireLegal := by
  intro s t h hstep
  obtain ⟨-, rfl⟩ | ⟨x, rest, e, -, -, rfl⟩ | ⟨x, rest, i, u, -, -, hexec, rfl⟩ := step_cases hstep
  · exact h
  · cases x with
    | request => exact wireLegal_addMark .invalidRequest (s := takeInput rest s) h
    | wire y => exact wireLegal_sendWireItem y h
  · have hu := wireLegal_of_exec (s := takeInput rest s) h hexec
    cases x <;> exact hu

/-! ### The idle lines between requests (R36) -/

/-- R36 of one state. -/
def IdleLines (s : State) : Prop := s.initDone = true → s.corrupted = false → s.marks = [] → LinesHigh s

theorem idleLines_of_marks {s : State} (h : s.marks ≠ []) : IdleLines s := fun _ _ hm => absurd hm h

theorem idleLines_addMark (k : MarkKind) (s : State) : IdleLines (addMark k s) :=
  idleLines_of_marks (List.append_ne_nil_of_right_ne_nil _ (List.cons_ne_nil _ _))

/-- A failed pin write corrupts the engine; otherwise the lines are as the events leave them. -/
theorem idleLines_transmit {b : Bool} {es : List Event} {k : State → State} {s : State}
    (hk : ∀ t, t.clk = (emitAll es s).clk → t.dio = (emitAll es s).dio → IdleLines (k t)) :
    IdleLines (transmit b es k s) := by
  obtain ⟨t, hdrive, heq⟩ | ⟨t, hdrive, heq⟩ := transmit_cases b es k s
  · obtain ⟨-, hclk, hdio, -⟩ := drive_completed_wire hdrive
    exact heq ▸ hk t hclk hdio
  · rw [heq]
    exact fun _ hc => absurd ((hardwareIoError_corrupted b t).symm.trans hc) (by decide)

theorem marked_kept : KeptByEffects (fun s => s.marks ≠ []) where
  event e s h := fun hnil => h (List.prefix_nil.1 (hnil ▸ ((after_kept s).event e s (after_refl s)).1))
  draw _ h := h
  mark _ _ _ := List.append_ne_nil_of_right_ne_nil _ (List.cons_ne_nil _ _)
  registers _ _ _ _ _ _ _ _ _ _ _ h := h
  initialized _ h := h
  corrupted _ _ _ := List.append_ne_nil_of_right_ne_nil _ (List.cons_ne_nil _ _)

/-- A request that sends ends with a terminator, or is `SEND_BYTE`, which has a mark. -/
theorem idleLines_sendOut {i : Instr} (hi : sends i = true) (hr : i.isRequest = true) (s : State) :
    IdleLines (sendOut i s) := by
  by_cases hb : ∃ b, i = .sendByte b
  · obtain ⟨b, rfl⟩ := hb
    exact idleLines_of_marks (marked_kept.transmit false _ (fun _ ht => marked_kept.finish _ ht)
      (List.append_ne_nil_of_right_ne_nil _ (List.cons_ne_nil _ _)))
  have hlines : LinesHigh (emitAll (sentEvents s i) (prepare i s)) := by
    cases i with
    | init active level =>
      rw [show sentEvents s (.init active level) = initEvents (initRegisters active level s) from rfl, initEvents_eq,
        ← List.append_assoc, emitAll_append]
      exact linesHigh_txCommand _ _
    | sendByte b => exact absurd ⟨b, rfl⟩ hb
    | sendCommand | setBrightness | setActive => exact linesHigh_txCommand _ _
    | sendDataAt a v =>
      rw [show sentEvents s (.sendDataAt a v) = txDataAt a v from rfl, txDataAt_eq, emitAll_append]
      exact linesHigh_txTransaction _ _
    | sendFrame | clear => exact linesHigh_txFrame _ _
    | terminate => exact emitAll_txTerm_levels _
    | dataAuto | dataFixed | dispCtrl | addr | data => cases hr
    | mergeRow | packFrame | scrollStart | scrollStep | scroll | reservedE | reservedF => cases hi
  refine idleLines_transmit fun t hclk hdio _ _ _ => ?_
  rw [LinesHigh, finish_clk, finish_dio, hclk, hdio]
  exact hlines

theorem idleLines_of_scrollStepOp {s t : State} (h : IdleLines s) (hstep : scrollStepOp s = .next t) : IdleLines t := by
  obtain ⟨-, e, -, rfl⟩ | ⟨-, hbody⟩ := scrollStepOp_cases hstep
  · exact idleLines_addMark e.mark s
  · cases hbody with
    | answered => exact h
    | missing => exact idleLines_addMark .missingGlyph { s with rStatus := .faulted, rErr := some .missingGlyph }
    | frame g1 g2 =>
      refine idleLines_transmit fun t hclk hdio _ _ _ => ?_
      have hlines := linesHigh_txFrame (pack g1 g2 s.rOff.val) (emitAll (pacing s) s)
      rw [← emitAll_append, LinesHigh, ← hclk, ← hdio] at hlines
      exact hlines

/-- Settles O17: every request that leaves no mark and no corruption has ended with a terminator, or sent nothing. -/
theorem requestKeepsIdleLines : Obligations.RequestKeepsIdleLines := by
  intro i s t hr hexec hs
  have hidle : IdleLines s := hs
  suffices IdleLines t from this
  cases ran_of_exec hexec with
  | refused e => exact idleLines_addMark e.mark s
  | sent hi => exact idleLines_sendOut hi hr s
  | answered => exact hidle
  | failed _ e => exact idleLines_addMark e.mark s
  | loaded => exact hidle
  | stepped hstep => exact idleLines_of_scrollStepOp hidle hstep
  | @scrolled msg delay _ _ hloop =>
    have hloaded : IdleLines (loadSequencer msg delay s) := hidle
    exact scrollLoop_induct (fun _ _ hs hstep => idleLines_of_scrollStepOp hs hstep) (fun _ hs => hs) hloaded hloop

end Sys2Proof.Machine

/-! The scroll unit at work (R186 to R189): what one frame of a running sequencer does, and what the loop of `SCROLL` has
done after any number of frames. -/

namespace Sys2Proof.Machine

open Stated

/-! ### `transmit` by the outcome of its pin writes -/

theorem transmit_of_completed {b : Bool} {es : List Event} {s u : State} (k : State → State) (h : drive es s = (u, true)) :
    transmit b es k s = k u := by
  unfold transmit
  rw [h]

theorem transmit_of_aborted {b : Bool} {es : List Event} {s u : State} (k : State → State) (h : drive es s = (u, false)) :
    transmit b es k s = hardwareIoError b u := by
  unfold transmit
  rw [h]

theorem drive_cons_of_sent {e : Event} (es : List Event) {s t : State} (h : tryEmit e s = (t, true)) :
    drive (e :: es) s = drive es t := by
  rw [drive, h]

theorem drive_cons_of_failed {e : Event} (es : List Event) {s t : State} (h : tryEmit e s = (t, false)) :
    drive (e :: es) s = (t, false) := by
  rw [drive, h]

theorem drive_append_of_completed {es : List Event} (fs : List Event) {s u : State} (h : drive es s = (u, true)) :
    drive (es ++ fs) s = drive fs u := by
  induction es generalizing s with
  | nil => rw [List.nil_append, ← (Prod.mk.inj h).1]
  | cons e es ih =>
    rw [List.cons_append]
    rcases hsent : tryEmit e s with ⟨t, _ | _⟩
    · rw [drive_cons_of_failed es hsent] at h
      cases (Prod.mk.inj h).2
    · rw [drive_cons_of_sent es hsent] at h
      rw [drive_cons_of_sent _ hsent, ih h]

/-- A write of registers that no event and no draw touches or reads. -/
structure BesideWire (f : State → State) : Prop where
  emit : ∀ e s, Machine.emit e (f s) = f (Machine.emit e s)
  takeDraw : ∀ s, Machine.takeDraw (f s) = f (Machine.takeDraw s)
  cfg : ∀ s, (f s).cfg = s.cfg
  nextDraw : ∀ s, Machine.nextDraw (f s) = Machine.nextDraw s

theorem BesideWire.tryEmit {f : State → State} (hf : BesideWire f) (e : Event) (s : State) :
    Machine.tryEmit e (f s) = (f (Machine.tryEmit e s).1, (Machine.tryEmit e s).2) := by
  unfold Machine.tryEmit
  cases pinOf e with
  | none => simp only [hf.emit]
  | some line =>
    simp only [hf.cfg, hf.nextDraw]
    split_ifs
    · simp only [hf.emit, hf.takeDraw]
    · simp only [hf.emit, hf.takeDraw]
    · simp only [hf.emit]

theorem BesideWire.drive {f : State → State} (hf : BesideWire f) (es : List Event) {s u : State} {ok : Bool}
    (h : drive es s = (u, ok)) : Machine.drive es (f s) = (f u, ok) := by
  induction es generalizing s with
  | nil =>
    obtain ⟨rfl, rfl⟩ := Prod.mk.inj h
    rfl
  | cons e es ih =>
    have hbeside := hf.tryEmit e s
    rcases hsent : Machine.tryEmit e s with ⟨t, _ | _⟩
    · rw [hsent] at hbeside
      rw [drive_cons_of_failed es hsent] at h
      obtain ⟨rfl, rfl⟩ := Prod.mk.inj h
      exact drive_cons_of_failed es hbeside
    · rw [hsent] at hbeside
      rw [drive_cons_of_sent es hsent] at h
      rw [drive_cons_of_sent es hbeside, ih h]

/-! ### The response before a step is not read -/

theorem besideWire_respond (st : Status) (r : List Byte) : BesideWire (respond st r) :=
  ⟨fun _ _ => rfl, fun _ => rfl, fun _ => rfl, fun _ => rfl⟩

theorem transmit_respond {b : Bool} {k : State → State} {st : Status} {r : List Byte}
    (hk : ∀ t, k (respond st r t) = k t) (es : List Event) (s : State) :
    transmit b es k (respond st r s) = transmit b es k s := by
  obtain ⟨t, ht, heq⟩ | ⟨t, ht, heq⟩ := transmit_cases b es k s
  · rw [heq, transmit_of_completed k ((besideWire_respond st r).drive es ht), hk]
  · rw [heq, transmit_of_aborted k ((besideWire_respond st r).drive es ht)]
    cases b <;> rfl

theorem scrollStepBody_respond (st : Status) (r : List Byte) (s : State) :
    scrollStepBody (respond st r s) = scrollStepBody s := by
  have hpair : ∀ c1 c2, scrollPair c1 c2 (respond st r s) = scrollPair c1 c2 s := by
    intro c1 c2
    unfold scrollPair
    rw [respond_cfg]
    cases lookupPair s.cfg c1 c2 with
    | none => rfl
    | some g => exact transmit_respond (fun _ => rfl) _ _
  unfold scrollStepBody
  rw [respond_rStatus]
  cases s.rStatus with
  | idle | done => rfl
  | faulted =>
    rw [respond_rErr]
    cases s.rErr <;> rfl
  | running =>
    rw [show currentPair (respond st r s) = currentPair s from rfl]
    cases currentPair s with
    | none => rfl
    | some c => exact congrArg _ (hpair c.1 c.2)

theorem scrollStepOp_respond (st : Status) (r : List Byte) {s : State} (h : Ready s) :
    scrollStepOp (respond st r s) = scrollStepOp s := by
  rw [scrollStepOp_of_ready h, scrollStepOp_of_ready (s := respond st r s) h, scrollStepBody_respond]

theorem scrollLoop_respond (k : Nat) (st : Status) (r : List Byte) {s : State} (h : Ready s) :
    scrollLoop k (respond st r s) = scrollLoop k s := by
  cases k with
  | zero => rfl
  | succ k =>
    unfold scrollLoop
    rw [scrollStepOp_respond st r h]

/-! ### The sequencer before its frame `n` -/

/-- The scroll unit's registers with `n` frames sent (R185, R186). -/
def atFrame (msg : List Byte) (delay : Half) (n : Nat) (s : State) : State :=
  { s with
    rMsg := msg, rDelay := delay, rPair := n / 8, rOff := ⟨n % 8, Nat.mod_lt n (by decide)⟩, rSent := n, rErr := none
    rStatus := if n / 8 + 1 < msg.length then .running else .done }

theorem loadSequencer_eq_atFrame (msg : List Byte) (delay : Half) (s : State) :
    loadSequencer msg delay s = atFrame msg delay 0 s := rfl

theorem besideWire_atFrame (msg : List Byte) (delay : Half) (n : Nat) : BesideWire (atFrame msg delay n) :=
  ⟨fun _ _ => rfl, fun _ => rfl, fun _ => rfl, fun _ => rfl⟩

/-- One frame on, while a pair is left. -/
theorem advanceSequencer_atFrame {msg : List Byte} {n : Nat} (delay : Half) (s : State) (h : n / 8 + 1 < msg.length) :
    advanceSequencer (atFrame msg delay n s) = atFrame msg delay (n + 1) s := by
  have hoff : (⟨n % 8, Nat.mod_lt n (by decide)⟩ : Fin 8) = 7 ↔ n % 8 = 7 := by
    rw [Fin.ext_iff]
    rfl
  unfold advanceSequencer atFrame
  simp only [hoff, h, if_true]
  by_cases h7 : n % 8 = 7
  · have hpair : (n + 1) / 8 = n / 8 + 1 := by omega
    have hzero : (n + 1) % 8 = 0 := by omega
    simp only [h7, if_true, hpair, hzero]
    congr 1
    by_cases hlast : n / 8 + 1 + 1 = msg.length
    · rw [if_pos hlast, if_neg (Nat.not_lt_of_ge hlast.ge)]
    · rw [if_neg hlast, if_pos (Nat.lt_of_le_of_ne h hlast)]
  · have hpair : (n + 1) / 8 = n / 8 := by omega
    have hsucc : (n + 1) % 8 = n % 8 + 1 := by omega
    simp only [h7, if_false, hpair, hsucc, h, if_true, Nat.ne_of_lt h]
    congr 1
    apply Fin.ext
    rw [Fin.val_add]
    show (n % 8 + 1) % 8 = n % 8 + 1
    omega

/-! ### One frame -/

/-- The delay, if any, and the frame `n` of a scroll (R186, R188). -/
def pacedFrame (cfg : Config) (msg : List Byte) (delay : Half) (n : Nat) : List Event :=
  (if n = 0 then [] else [.sleep delay]) ++ frameEvents (scrollFrameAt cfg msg n)

theorem scrollEvents_succ (cfg : Config) (msg : List Byte) (delay : Half) (n : Nat) :
    scrollEvents cfg msg delay (n + 1) = scrollEvents cfg msg delay n ++ pacedFrame cfg msg delay n := by
  simp [scrollEvents, pacedFrame, List.range_succ]

/-- The message has a frame `n`, and the glyphs for it are there. -/
structure HasFrame (cfg : Config) (msg : List Byte) (n : Nat) : Prop where
  inside : n / 8 + 1 < msg.length
  first : lookupGlyph cfg (msg.getD (n / 8) 0) ≠ none
  second : lookupGlyph cfg (msg.getD (n / 8 + 1) 0) ≠ none

theorem HasFrame.glyphs {cfg : Config} {msg : List Byte} {n : Nat} (h : HasFrame cfg msg n) :
    ∃ g1 g2, lookupGlyph cfg (msg.getD (n / 8) 0) = some g1 ∧ lookupGlyph cfg (msg.getD (n / 8 + 1) 0) = some g2 ∧
      scrollFrameAt cfg msg n = pack g1 g2 (n % 8) := by
  obtain ⟨g1, h1⟩ := Option.ne_none_iff_exists'.1 h.first
  obtain ⟨g2, h2⟩ := Option.ne_none_iff_exists'.1 h.second
  exact ⟨g1, g2, h1, h2, by rw [scrollFrameAt, h1, h2]⟩

theorem HasFrame.scrollFrameAt_length {cfg : Config} {msg : List Byte} {n : Nat} (h : HasFrame cfg msg n) :
    (scrollFrameAt cfg msg n).length = 8 := by
  obtain ⟨g1, g2, -, -, heq⟩ := h.glyphs
  rw [heq, pack_length]

theorem getElem?_eq_some_getD {msg : List Byte} {k : Nat} (h : k < msg.length) : msg[k]? = some (msg.getD k 0) := by
  simp [h]

/-- Before frame `n` the step is the one of its pair of characters. -/
theorem scrollStepOp_atFrame {msg : List Byte} {n : Nat} (delay : Half) {s : State} (hready : Ready s)
    (h : n / 8 + 1 < msg.length) :
    scrollStepOp (atFrame msg delay n s) =
      .next (scrollPair (msg.getD (n / 8) 0) (msg.getD (n / 8 + 1) 0) (atFrame msg delay n s)) := by
  rw [scrollStepOp_of_ready (s := atFrame msg delay n s) hready]
  exact scrollStepBody_of_running (if_pos h) (getElem?_eq_some_getD (Nat.lt_of_succ_lt h)) (getElem?_eq_some_getD h)

/-- The step for frame `n` drives its events and moves on by one frame. -/
theorem scrollStepOp_of_hasFrame {msg : List Byte} {n : Nat} (delay : Half) {s : State} (hready : Ready s)
    (h : HasFrame s.cfg msg n) :
    scrollStepOp (atFrame msg delay n s) =
      .next (transmit true (pacedFrame s.cfg msg delay n) (fun t => respond .ok [] (advanceSequencer t))
        (atFrame msg delay n s)) := by
  obtain ⟨g1, g2, h1, h2, hframe⟩ := h.glyphs
  have hpacing : pacing (atFrame msg delay n s) = if n = 0 then [] else [.sleep delay] := by
    change (if 0 < n then [Event.sleep delay] else []) = _
    by_cases hn : n = 0
    · rw [if_pos hn, if_neg (Nat.not_lt_of_ge hn.le)]
    · rw [if_neg hn, if_pos (Nat.pos_of_ne_zero hn)]
  rw [scrollStepOp_atFrame delay hready h.inside, scrollPair_of_glyphs (s := atFrame msg delay n s) h1 h2, scrollFrame,
    hpacing, txFrame_eq_frameEvents, pacedFrame, hframe]
  rfl

theorem scrollStepOp_of_frame_completed {msg : List Byte} {n : Nat} {delay : Half} {s u : State} (hready : Ready s)
    (h : HasFrame s.cfg msg n) (hdrive : drive (pacedFrame s.cfg msg delay n) s = (u, true)) :
    scrollStepOp (atFrame msg delay n s) = .next (respond .ok [] (atFrame msg delay (n + 1) u)) := by
  rw [scrollStepOp_of_hasFrame delay hready h,
    transmit_of_completed _ ((besideWire_atFrame msg delay n).drive _ hdrive), advanceSequencer_atFrame delay u h.inside]

theorem scrollStepOp_of_frame_aborted {msg : List Byte} {n : Nat} {delay : Half} {s u : State} (hready : Ready s)
    (h : HasFrame s.cfg msg n) (hdrive : drive (pacedFrame s.cfg msg delay n) s = (u, false)) :
    scrollStepOp (atFrame msg delay n s) = .next (hardwareIoError true (atFrame msg delay n u)) := by
  rw [scrollStepOp_of_hasFrame delay hready h,
    transmit_of_aborted _ ((besideWire_atFrame msg delay n).drive _ hdrive)]

theorem scrollStepOp_of_frame_missing {msg : List Byte} {n : Nat} {delay : Half} {s : State} (hready : Ready s)
    (h : n / 8 + 1 < msg.length)
    (hmissing : lookupGlyph s.cfg (msg.getD (n / 8) 0) = none ∨ lookupGlyph s.cfg (msg.getD (n / 8 + 1) 0) = none) :
    scrollStepOp (atFrame msg delay n s) = .next (scrollMissing (atFrame msg delay n s)) := by
  rw [scrollStepOp_atFrame delay hready h, scrollPair_of_missing (s := atFrame msg delay n s) hmissing]

theorem scrollStepOp_of_no_frame {msg : List Byte} {n : Nat} {delay : Half} {s : State} (hready : Ready s)
    (h : msg.length ≤ n / 8 + 1) :
    scrollStepOp (atFrame msg delay n s) = .next (respond .done [] (atFrame msg delay n s)) := by
  rw [scrollStepOp_of_ready (s := atFrame msg delay n s) hready]
  exact scrollStepBody_of_finished (.inr (if_neg (Nat.not_lt_of_ge h)))

/-! ### The loop -/

theorem ready_of_drive {es : List Event} {s u : State} {ok : Bool} (h : Ready s) (hdrive : drive es s = (u, ok)) :
    Ready u := by
  obtain ⟨hdone, hcorrupted⟩ := h
  have hu : u = (drive es s).1 := by rw [hdrive]
  exact ⟨by rw [hu, drive_initDone, hdone], by rw [hu, drive_corrupted, hcorrupted]⟩

theorem cfg_of_drive {es : List Event} {s u : State} {ok : Bool} (hdrive : drive es s = (u, ok)) : u.cfg = s.cfg := by
  rw [show u = (drive es s).1 by rw [hdrive], drive_cfg]

theorem drive_append_completed {es fs : List Event} {s u : State} (h : drive (es ++ fs) s = (u, true)) :
    ∃ t, drive es s = (t, true) ∧ drive fs t = (u, true) := by
  induction es generalizing s with
  | nil => exact ⟨s, rfl, h⟩
  | cons e es ih =>
    rw [List.cons_append] at h
    rcases hsent : tryEmit e s with ⟨t, _ | _⟩
    · rw [drive_cons_of_failed _ hsent] at h
      cases (Prod.mk.inj h).2
    · rw [drive_cons_of_sent _ hsent] at h
      rw [drive_cons_of_sent _ hsent]
      exact ih h

/-- The state after the first `n` frames of a scroll, each sent whole. -/
theorem scrollLoop_after_frames {msg : List Byte} {delay : Half} {s u : State} {n : Nat} (hready : Ready s)
    (hframes : ∀ j < n, HasFrame s.cfg msg j) (hdrive : drive (scrollEvents s.cfg msg delay n) s = (u, true)) (k : Nat) :
    scrollLoop (n + k) (loadSequencer msg delay s) = scrollLoop k (atFrame msg delay n u) := by
  induction n generalizing u k with
  | zero =>
    obtain ⟨rfl, -⟩ := Prod.mk.inj hdrive
    rw [Nat.zero_add, loadSequencer_eq_atFrame]
  | succ n ih =>
    rw [scrollEvents_succ] at hdrive
    obtain ⟨t, hbefore, hframe⟩ := drive_append_completed hdrive
    have hreadyt := ready_of_drive hready hbefore
    rw [← cfg_of_drive hbefore] at hframe
    have hstep := scrollStepOp_of_frame_completed hreadyt (by rw [cfg_of_drive hbefore]; exact hframes n n.lt_succ_self) hframe
    rw [Nat.add_right_comm, Nat.add_assoc, ih (fun j hj => hframes j (Nat.lt_succ_of_lt hj)) hbefore, scrollLoop, hstep]
    have hreadyu : Ready u := ready_of_drive hreadyt hframe
    exact scrollLoop_respond k .ok [] (s := atFrame msg delay (n + 1) u) hreadyu

/-- `SCROLL_STEP`s after a `SCROLL_START` reach the same states. -/
theorem afterSteps_succ (n : Nat) (o : Host.Outcome State Fault Refusal) :
    afterSteps (n + 1) o = afterSteps 1 (afterSteps n o) := by
  induction n generalizing o with
  | zero => rfl
  | succ n ih =>
    cases o with
    | next t => exact ih _
    | fault f => rfl
    | refused r => rfl

theorem afterSteps_after_frames {msg : List Byte} {delay : Half} {s u : State} {n : Nat} (hready : Ready s)
    (hframes : ∀ j < n, HasFrame s.cfg msg j) (hdrive : drive (scrollEvents s.cfg msg delay n) s = (u, true)) :
    afterSteps n (exec (.scrollStart msg delay) s) = .next (respond .ok [] (atFrame msg delay n u)) := by
  induction n generalizing u with
  | zero =>
    obtain ⟨rfl, -⟩ := Prod.mk.inj hdrive
    exact exec_scrollStart_of_ready hready msg delay
  | succ n ih =>
    rw [scrollEvents_succ] at hdrive
    obtain ⟨t, hbefore, hframe⟩ := drive_append_completed hdrive
    have hreadyt := ready_of_drive hready hbefore
    rw [← cfg_of_drive hbefore] at hframe
    have hstep := scrollStepOp_of_frame_completed hreadyt (by rw [cfg_of_drive hbefore]; exact hframes n n.lt_succ_self) hframe
    rw [afterSteps_succ, ih (fun j hj => hframes j (Nat.lt_succ_of_lt hj)) hbefore, afterSteps, exec_scrollStep,
      scrollStepOp_respond .ok [] (s := atFrame msg delay n t) hreadyt, hstep]
    rfl

/-! ### How a scroll ends -/

/-- Every frame sent: the next step finds the sequencer done (R187). -/
theorem exec_scroll_of_completed {msg : List Byte} {delay : Half} {s u : State} (hready : Ready s)
    (hframes : ∀ j < 8 * (msg.length - 1), HasFrame s.cfg msg j)
    (hdrive : drive (scrollEvents s.cfg msg delay (8 * (msg.length - 1))) s = (u, true)) :
    exec (.scroll msg delay) s = .next (respond .ok [] (atFrame msg delay (8 * (msg.length - 1)) u)) := by
  rw [exec_scroll_of_ready hready, scrollBound, scrollLoop_after_frames hready hframes hdrive, scrollLoop,
    scrollStepOp_of_no_frame (ready_of_drive hready hdrive) (by omega)]
  rfl

/-- The frames before a missing glyph sent: the next step ends in `MissingGlyph` (R187, R216). -/
theorem exec_scroll_of_missing {msg : List Byte} {delay : Half} {p : Nat} {s u : State} (hready : Ready s)
    (hframes : ∀ j < 8 * p, HasFrame s.cfg msg j) (hp : p + 1 < msg.length)
    (hmissing : lookupGlyph s.cfg (msg.getD p 0) = none ∨ lookupGlyph s.cfg (msg.getD (p + 1) 0) = none)
    (hdrive : drive (scrollEvents s.cfg msg delay (8 * p)) s = (u, true)) :
    exec (.scroll msg delay) s = .next (scrollMissing (atFrame msg delay (8 * p) u)) := by
  have hpair : 8 * p / 8 = p := Nat.mul_div_cancel_left p (by decide)
  obtain ⟨k, hk⟩ : ∃ k, scrollBound msg.length = 8 * p + (k + 1) := Nat.exists_eq_add_of_lt (by unfold scrollBound; omega)
  rw [exec_scroll_of_ready hready, hk, scrollLoop_after_frames hready hframes hdrive, scrollLoop,
    scrollStepOp_of_frame_missing (ready_of_drive hready hdrive) (by rw [hpair]; exact hp)
      (by rw [hpair, cfg_of_drive hdrive]; exact hmissing)]
  rfl

/-- A pin write of frame `n` failed: the step ends in `HardwareIoError` at that frame (R214). -/
theorem exec_scroll_of_aborted {msg : List Byte} {delay : Half} {n : Nat} {s t u : State} (hready : Ready s)
    (hframes : ∀ j ≤ n, HasFrame s.cfg msg j) (hdrive : drive (scrollEvents s.cfg msg delay n) s = (t, true))
    (hframe : drive (pacedFrame s.cfg msg delay n) t = (u, false)) :
    exec (.scroll msg delay) s = .next (hardwareIoError true (atFrame msg delay n u)) := by
  have hinside := (hframes n le_rfl).inside
  obtain ⟨k, hk⟩ : ∃ k, scrollBound msg.length = n + (k + 1) := Nat.exists_eq_add_of_lt (by unfold scrollBound; omega)
  rw [← cfg_of_drive hdrive] at hframe
  rw [exec_scroll_of_ready hready, hk,
    scrollLoop_after_frames hready (fun j hj => hframes j (Nat.le_of_lt hj)) hdrive, scrollLoop,
    scrollStepOp_of_frame_aborted (ready_of_drive hready hdrive) (by rw [cfg_of_drive hdrive]; exact hframes n le_rfl) hframe]
  rfl

/-! ### Which frames a scroll has -/

theorem hasFrame_of_glyphs {cfg : Config} {msg : List Byte} {n : Nat} (hn : n < 8 * (msg.length - 1))
    (h : ∀ k ≤ n / 8 + 1, lookupGlyph cfg (msg.getD k 0) ≠ none) : HasFrame cfg msg n :=
  ⟨by omega, h _ (Nat.le_succ _), h _ le_rfl⟩

/-- Where every character has its glyph, so has every frame. -/
theorem hasFrame_of_all {cfg : Config} {msg : List Byte} (h : 2 ≤ msg.length → ∀ c ∈ msg, lookupGlyph cfg c ≠ none) :
    ∀ j < 8 * (msg.length - 1), HasFrame cfg msg j := by
  intro j hj
  refine hasFrame_of_glyphs hj fun k hk => h (by omega) _ ?_
  rw [List.getD_eq_getElem _ _ (by omega)]
  exact List.getElem_mem _

/-- Settles O39: both reach the state after the last frame, and both answer `OK`. -/
theorem scrollIsStartThenSteps : Obligations.ScrollIsStartThenSteps := by
  intro msg delay s hio hready hglyphs
  have hframes := hasFrame_of_all hglyphs
  have hdrive := drive_noFault (scrollEvents s.cfg msg delay (8 * (msg.length - 1))) hio
  rw [exec_scroll_of_completed hready hframes hdrive, afterSteps_after_frames hready hframes hdrive]

end Sys2Proof.Machine

/-! A scroll without I/O faults (R186 to R189): the next frame of a running sequencer, every frame of a complete scroll with
its counts, and the stop at a missing glyph. -/

namespace Sys2Proof.Machine

open Stated

/-! ### The delay before a frame -/

/-- The events before a frame: no delay or one. -/
def Pause (es : List Event) : Prop := es = [] ∨ ∃ ms, es = [.sleep ms]

theorem pause_ite (p : Prop) [Decidable p] (ms : Half) : Pause (if p then [] else [.sleep ms]) := by
  by_cases h : p
  · exact .inl (if_pos h)
  · exact .inr ⟨ms, if_neg h⟩

theorem pause_pacing (s : State) : Pause (pacing s) := by
  unfold pacing
  by_cases h : 0 < s.rSent
  · exact .inr ⟨s.rDelay, if_pos h⟩
  · exact .inl (if_neg h)

theorem emitAll_pause_clk {es : List Event} (h : Pause es) (s : State) : (emitAll es s).clk = s.clk := by
  obtain rfl | ⟨ms, rfl⟩ := h <;> rfl

/-- A receiver outside a transaction ignores a delay (R63, R64). -/
theorem sameWire_pause {es : List Event} (h : Pause es) {s : State} (hp : s.rx.phase = .idle ∨ s.rx.phase = .lost) :
    SameWire (emitAll es s) s := by
  obtain rfl | ⟨ms, rfl⟩ := h
  · exact ⟨rfl, rfl⟩
  · have hquiet : rxEvent s.cfg.addrCount s.clk s.dio (.sleep ms) s.rx = (s.rx, false) := by
      unfold rxEvent
      obtain hp | hp := hp
      · rw [hp]
        rfl
      · rw [hp]
        rfl
    rw [emitAll_cons, emitAll_nil]
    exact ⟨by rw [emit_rx, hquiet], by rw [emit_marks, hquiet]; rfl⟩

/-- The frame write of `idle_txFrame_effect` with a delay before it. -/
theorem idle_pausedFrame_effect {es : List Event} (hes : Pause es) (bytes : List Byte) {s t : State} (hidle : ReceiverIdle s)
    (ht : SameWire t (emitAll (es ++ frameEvents bytes) s)) :
    t.rx.phase = .idle ∧
      (if 1 ≤ bytes.length ∧ bytes.length ≤ s.cfg.addrCount then
        t.rx.mode = some .auto ∧ t.rx.disp = s.rx.disp ∧ MarksAdd s t [] ∧
        ∀ k, Memory.read t.rx.ram k = if k < bytes.length then bytes[k]? else Memory.read s.rx.ram k
       else ControllerUnknown t ∧ MarksAdd s t [.controllerUndefined]) := by
  obtain ⟨hrx, hmarks⟩ := sameWire_pause hes (.inl hidle.1)
  have hidle' : ReceiverIdle (emitAll es s) := ⟨by rw [hrx]; exact hidle.1, by rw [emitAll_pause_clk hes]; exact hidle.2⟩
  rw [emitAll_append, ← txFrame_eq_frameEvents] at ht
  have heffect := idle_txFrame_effect bytes hidle' ht
  simpa only [MarksAdd, hrx, hmarks, emitAll_cfg, emitAll_reqIndex] using heffect

theorem lost_pausedFrame_effect {es : List Event} (hes : Pause es) (bytes : List Byte) {s t : State}
    (hp : s.rx.phase = .lost) (hc : s.clk = some true) (hm : s.rx.mode = none)
    (ht : SameWire t (emitAll (es ++ frameEvents bytes) s)) :
    t.rx.phase = .idle ∧ ControllerUnknown t ∧ MarksAdd s t [.controllerUndefined] := by
  obtain ⟨hrx, hmarks⟩ := sameWire_pause hes (.inr hp)
  rw [emitAll_append, ← txFrame_eq_frameEvents] at ht
  have heffect := lost_txFrame_effect bytes (by rw [hrx]; exact hp) (by rw [emitAll_pause_clk hes]; exact hc)
    (by rw [hrx]; exact hm) ht
  simpa only [MarksAdd, hmarks, emitAll_reqIndex] using heffect

theorem linesHigh_append_frameEvents (es : List Event) (bytes : List Byte) (s : State) :
    LinesHigh (emitAll (es ++ frameEvents bytes) s) := by
  rw [emitAll_append, ← txFrame_eq_frameEvents]
  exact linesHigh_txFrame _ _

/-! ### One step -/

/-- The state after a step that sends its frame (R186). -/
def frameSent (bytes : List Byte) (s : State) : State :=
  respond .ok [] (advanceSequencer (emitAll (pacing s ++ frameEvents bytes) s))

theorem exec_scrollStep_of_glyphs {c1 c2 : Byte} {g1 g2 : Glyph} {s : State} (hio : NoIoFaults s) (hready : Ready s)
    (hrun : s.rStatus = .running) (hc1 : s.rMsg[s.rPair]? = some c1) (hc2 : s.rMsg[s.rPair + 1]? = some c2)
    (hg1 : lookupGlyph s.cfg c1 = some g1) (hg2 : lookupGlyph s.cfg c2 = some g2) :
    exec .scrollStep s = .next (frameSent (pack g1 g2 s.rOff.val) s) := by
  rw [exec_scrollStep, scrollStepOp_of_ready hready, scrollStepBody_of_running hrun hc1 hc2, scrollPair_of_glyphs hg1 hg2,
    scrollFrame, transmit_noFault _ _ _ hio, txFrame_eq_frameEvents]
  rfl

/-- Settles O34: the step drives the delay and the frame, and moves on by one position. -/
theorem scrollStepSendsNextFrame : Obligations.ScrollStepSendsNextFrame := by
  intro c1 c2 g1 g2 s hio hready hrun hc1 hc2 hg1 hg2
  let bytes := pack g1 g2 s.rOff.val
  let u := emitAll (pacing s ++ frameEvents bytes) s
  have hwire : SameWire (frameSent bytes s) u := ⟨rfl, rfl⟩
  refine ⟨frameSent bytes s, exec_scrollStep_of_glyphs hio hready hrun hc1 hc2 hg1 hg2, ?trace,
    linesHigh_append_frameEvents (pacing s) bytes s, ⟨rfl, ?port, ?draws⟩, sameEngine_emitAll _ s, emitAll_marks_prefix _ s,
    ?msg, ?delay, ?err, ?sent, ?position, ?status, ?idle, ?lost⟩
  case trace => exact emitAll_trace _ s
  case port => simp [SamePort, frameSent]
  case draws => simp [SameDraws, frameSent]
  case msg => simp [frameSent]
  case delay => simp [frameSent]
  case err => simp [frameSent]
  case sent => simp [frameSent]
  case position =>
    have h := advanceSequencer_position u
    rwa [show u.rPair = s.rPair from emitAll_rPair _ s, show u.rOff = s.rOff from emitAll_rOff _ s] at h
  case status => simp [frameSent, hrun]
  case idle =>
    intro hidle
    obtain ⟨hphase, heffect⟩ := idle_pausedFrame_effect (pause_pacing s) bytes hidle hwire
    refine ⟨hphase, ?_⟩
    rw [show bytes.length = 8 from rfl] at heffect
    by_cases hoffsets : 8 ≤ s.cfg.addrCount
    · rw [if_pos ⟨by decide, hoffsets⟩] at heffect
      exact (if_pos hoffsets).mpr heffect
    · rw [if_neg fun h => hoffsets h.2] at heffect
      exact (if_neg hoffsets).mpr heffect
  case lost => exact fun hp hc hm => lost_pausedFrame_effect (pause_pacing s) bytes hp hc hm hwire

/-! ### Every frame of a scroll -/

theorem linesHigh_scrollEvents {cfg : Config} {msg : List Byte} {delay : Half} (n : Nat) {s : State} (h : LinesHigh s) :
    LinesHigh (emitAll (scrollEvents cfg msg delay n) s) := by
  cases n with
  | zero => exact h
  | succ n =>
    rw [scrollEvents_succ, emitAll_append]
    exact linesHigh_append_frameEvents _ _ _

/-- What an idle receiver with the 8 offsets has after `n` frames: the last of them. -/
theorem idle_scrollEvents_effect {msg : List Byte} {delay : Half} {n : Nat} {s : State} (hidle : ReceiverIdle s)
    (hoffsets : 8 ≤ s.cfg.addrCount) (hframes : ∀ j < n, HasFrame s.cfg msg j) {t : State}
    (ht : SameWire t (emitAll (scrollEvents s.cfg msg delay n) s)) :
    t.rx.phase = .idle ∧ t.rx.disp = s.rx.disp ∧ MarksAdd s t [] ∧
      ∀ k, Memory.read t.rx.ram k =
        if k < 8 ∧ 0 < n then (scrollFrameAt s.cfg msg (n - 1))[k]? else Memory.read s.rx.ram k := by
  induction n generalizing t with
  | zero =>
    obtain ⟨hrx, hmarks⟩ := ht
    rw [show t.rx = s.rx from hrx]
    exact ⟨hidle.1, rfl, hmarks.trans (List.append_nil _).symm, fun k => by simp⟩
  | succ n ih =>
    let u := emitAll (scrollEvents s.cfg msg delay n) s
    obtain ⟨hphase, hdisp, hmarks, hram⟩ := ih (t := u) (fun j hj => hframes j (Nat.lt_succ_of_lt hj)) ⟨rfl, rfl⟩
    have hclk : u.clk = some true := by
      cases n with
      | zero => exact hidle.2
      | succ n =>
        show (emitAll (scrollEvents s.cfg msg delay (n + 1)) s).clk = some true
        rw [scrollEvents_succ, emitAll_append]
        exact (linesHigh_append_frameEvents _ _ _).1
    rw [scrollEvents_succ, emitAll_append] at ht
    obtain ⟨hphase', heffect⟩ := idle_pausedFrame_effect (pause_ite (n = 0) delay) _ (s := u) ⟨hphase, hclk⟩ ht
    have hlength := (hframes n n.lt_succ_self).scrollFrameAt_length
    have hcfg : u.cfg = s.cfg := emitAll_cfg _ s
    rw [hlength, hcfg, if_pos ⟨by decide, hoffsets⟩] at heffect
    obtain ⟨-, hdisp', hmarks', hram'⟩ := heffect
    refine ⟨hphase', hdisp'.trans hdisp, marksAdd_trans (emitAll_reqIndex _ s) hmarks hmarks', fun k => ?_⟩
    rw [hram']
    by_cases hk : k < 8
    · rw [if_pos hk, if_pos ⟨hk, n.succ_pos⟩, Nat.add_sub_cancel]
    · rw [if_neg hk, hram, if_neg fun h => hk h.1, if_neg fun h => hk h.1]

/-- The events of `n` frames of a scroll, sent without a fault. -/
def scrolledTo (msg : List Byte) (delay : Half) (n : Nat) (s : State) : State :=
  atFrame msg delay n (emitAll (scrollEvents s.cfg msg delay n) s)

/-- Settles O36: the scroll stands after its last frame. -/
theorem scrollSendsEveryFrame : Obligations.ScrollSendsEveryFrame := by
  intro msg delay s hio hready hglyphs
  have hframes := hasFrame_of_all hglyphs
  let total := 8 * (msg.length - 1)
  have hdrive := drive_noFault (scrollEvents s.cfg msg delay total) hio
  have hpair : total / 8 = msg.length - 1 := Nat.mul_div_cancel_left _ (by decide)
  refine ⟨respond .ok [] (scrolledTo msg delay total s), exec_scroll_of_completed hready hframes hdrive, ?trace, ?status, rfl,
    rfl, hpair, ?offset, rfl, rfl, ⟨rfl, ?port, ?draws⟩, sameEngine_emitAll _ s, emitAll_marks_prefix _ s,
    linesHigh_scrollEvents total, ?idle⟩
  case trace => exact emitAll_trace _ s
  case status => exact if_neg (by omega)
  case offset => exact Fin.ext (Nat.mul_mod_right 8 _)
  case port => exact ⟨emitAll_cfg _ s, emitAll_input _ s, emitAll_reqIndex _ s⟩
  case draws => exact ⟨emitAll_pinDraws _ s, emitAll_drawIndex _ s⟩
  case idle =>
    intro hidle hoffsets
    obtain ⟨hphase, hdisp, hmarks, hram⟩ := idle_scrollEvents_effect hidle hoffsets hframes
      (t := respond .ok [] (scrolledTo msg delay total s)) ⟨rfl, rfl⟩
    refine ⟨hphase, hdisp, hmarks, fun k => ?_⟩
    have hsome : 0 < 8 * (msg.length - 1) ↔ 2 ≤ msg.length := by omega
    simp only [hram, hsome]

/-- Settles O37: the frames of the earlier pairs are sent, and the next step meets the missing glyph. -/
theorem scrollStopsAtMissingGlyph : Obligations.ScrollStopsAtMissingGlyph := by
  intro msg delay p s hio hready hp hbefore hat hmissing
  have hframes : ∀ j < 8 * p, HasFrame s.cfg msg j := by
    intro j hj
    refine hasFrame_of_glyphs (by omega) fun k hk => ?_
    obtain hlt | rfl : k < p ∨ k = p := Nat.lt_or_eq_of_le (by omega)
    · exact hbefore k hlt
    · exact hat (by omega)
  have hdrive := drive_noFault (scrollEvents s.cfg msg delay (8 * p)) hio
  refine ⟨scrollMissing (scrolledTo msg delay (8 * p) s), exec_scroll_of_missing hready hframes hp hmissing hdrive, ?trace, rfl,
    rfl, rfl, rfl, rfl, Nat.mul_div_cancel_left p (by decide), ?offset, rfl, ?port, ?draws, sameEngine_emitAll _ s, ?marks, ?last⟩
  case trace => exact emitAll_trace _ s
  case offset => exact Fin.ext (Nat.mul_mod_right 8 _)
  case port => exact ⟨emitAll_cfg _ s, emitAll_input _ s, emitAll_reqIndex _ s⟩
  case draws => exact ⟨emitAll_pinDraws _ s, emitAll_drawIndex _ s⟩
  case marks => exact (emitAll_marks_prefix _ s).trans (List.prefix_append _ _)
  case last =>
    refine (List.getLast?_append_of_ne_nil _ (List.cons_ne_nil _ _)).trans ?_
    exact congrArg (fun n => some (Mark.mk .missingGlyph n)) (emitAll_reqIndex _ s)

/-! ### The counts of a complete scroll -/

theorem pinWrites_append (es fs : List Event) : pinWrites (es ++ fs) = pinWrites es + pinWrites fs := List.countP_append

theorem sleeps_append (es fs : List Event) : sleeps (es ++ fs) = sleeps es + sleeps fs := List.countP_append

/-- A frame write is pin writes only. -/
theorem pinWrite_of_mem_frameEvents {bytes : List Byte} {e : Event} (he : e ∈ frameEvents bytes) :
    ∃ v, e = .setClk v ∨ e = .setDat v := by
  have hbyte : ∀ b, e ∈ byteEvents b → ∃ v, e = .setClk v ∨ e = .setDat v := by
    intro b hb
    obtain ⟨k, -, hk⟩ := List.mem_flatMap.1 hb
    simp only [List.mem_cons, List.not_mem_nil, or_false] at hk
    obtain rfl | rfl | rfl := hk
    · exact ⟨_, .inl rfl⟩
    · exact ⟨_, .inr rfl⟩
    · exact ⟨_, .inl rfl⟩
  have hterminator : e ∈ terminator → ∃ v, e = .setClk v ∨ e = .setDat v := by
    intro h
    simp only [terminator, List.mem_cons, List.not_mem_nil, or_false] at h
    obtain rfl | rfl | rfl | rfl := h
    · exact ⟨_, .inr rfl⟩
    · exact ⟨_, .inl rfl⟩
    · exact ⟨_, .inl rfl⟩
    · exact ⟨_, .inr rfl⟩
  have htransaction : ∀ bs, e ∈ transaction bs → ∃ v, e = .setClk v ∨ e = .setDat v := by
    intro bs h
    obtain rfl | h := List.mem_cons.1 h
    · exact ⟨_, .inr rfl⟩
    obtain h | h := List.mem_append.1 h
    · obtain ⟨b, -, hb⟩ := List.mem_flatMap.1 h
      exact hbyte b hb
    · exact hterminator h
  obtain h | h := List.mem_append.1 he
  · exact htransaction _ h
  · exact htransaction _ h

theorem pinWrites_frameEvents (bytes : List Byte) : pinWrites (frameEvents bytes) = 58 + 24 * bytes.length := by
  rw [← frameEvents_length]
  refine List.countP_eq_length.2 fun e he => ?_
  obtain ⟨v, rfl | rfl⟩ := pinWrite_of_mem_frameEvents he <;> rfl

theorem sleeps_frameEvents (bytes : List Byte) : sleeps (frameEvents bytes) = 0 := by
  refine List.countP_eq_zero.2 fun e he => ?_
  obtain ⟨v, rfl | rfl⟩ := pinWrite_of_mem_frameEvents he <;> exact Bool.false_ne_true

theorem pinWrites_pause {es : List Event} (h : Pause es) : pinWrites es = 0 := by
  obtain rfl | ⟨ms, rfl⟩ := h <;> rfl

/-- A frame of a scroll is 250 pin writes (R189). -/
theorem pinWrites_pacedFrame {cfg : Config} {msg : List Byte} {n : Nat} (delay : Half) (h : HasFrame cfg msg n) :
    pinWrites (pacedFrame cfg msg delay n) = 250 := by
  rw [pacedFrame, pinWrites_append, pinWrites_pause (pause_ite _ _), pinWrites_frameEvents, h.scrollFrameAt_length]

theorem pinWrites_scrollEvents {cfg : Config} {msg : List Byte} {n : Nat} (delay : Half) (h : ∀ j < n, HasFrame cfg msg j) :
    pinWrites (scrollEvents cfg msg delay n) = 250 * n := by
  induction n with
  | zero => rfl
  | succ n ih =>
    rw [scrollEvents_succ, pinWrites_append, ih fun j hj => h j (Nat.lt_succ_of_lt hj),
      pinWrites_pacedFrame delay (h n n.lt_succ_self), Nat.mul_succ]

theorem sleeps_scrollEvents (cfg : Config) (msg : List Byte) (delay : Half) (n : Nat) :
    sleeps (scrollEvents cfg msg delay n) = n - 1 := by
  induction n with
  | zero => rfl
  | succ n ih =>
    have hpaced : sleeps (pacedFrame cfg msg delay n) = if n = 0 then 0 else 1 := by
      rw [pacedFrame, sleeps_append, sleeps_frameEvents]
      split_ifs <;> rfl
    rw [scrollEvents_succ, sleeps_append, ih, hpaced]
    split_ifs <;> omega

/-- Settles O38: the counts of the events of every frame. -/
theorem scrollCounts : Obligations.ScrollCounts := by
  intro msg delay s t hio hready hglyphs hexec
  have hframes := hasFrame_of_all hglyphs
  obtain ⟨t', hexec', htrace, -, -, -, -, -, hsent, -⟩ := scrollSendsEveryFrame msg delay s hio hready hglyphs
  obtain rfl := next_inj (hexec.symm.trans hexec')
  exact ⟨_, htrace, hsent, sleeps_scrollEvents _ _ _ _, pinWrites_scrollEvents delay hframes⟩

end Sys2Proof.Machine

/-! A pin write that fails (R54, R75, R210, R214): what stands, where the draws are, and what each request leaves. -/

namespace Sys2Proof.Machine

open Stated

/-! ### The failed pin write -/

/-- What stands after a list of events that stopped at a failed pin write of `line`, with `pre` emitted before it and `rest`
the draws after its own. -/
structure Aborted (pre : List Event) (line : Line) (rest : List Bool) (s v : State) : Prop where
  trace : v.trace = s.trace ++ (pre ++ [.ioFail line])
  clk : line = .clk → v.clk = none
  dio : line = .dio → v.dio = none
  phase : v.rx.phase = .lost
  initDone : v.initDone = s.initDone
  marks : s.marks <+: v.marks
  port : SamePort s v
  draws : v.pinDraws = rest
  drawn : v.drawIndex = s.drawIndex + pinWrites pre + 1

/-- The draws fix the failed pin write among the events. -/
theorem drive_aborts {es pre post : List Event} {e : Event} {line : Line} {rest : List Bool} {s : State}
    (hes : es = pre ++ e :: post) (hline : drivenLine e = some line) (hio : s.cfg.ioFaults = true)
    (hdraws : s.pinDraws = List.replicate (pinWrites pre) false ++ true :: rest) :
    ∃ v, drive es s = (v, false) ∧ Aborted pre line rest s v := by
  rw [drivenLine_eq_pinOf] at hline
  rw [pinWrites_eq_pinCount] at hdraws
  have hdrive := drive_of_failing_draw pre e post line s rest hio hline hdraws
  rw [← hes, takeDraws_eq] at hdrive
  refine ⟨_, hdrive, ?trace, ?clk, ?dio, drive_aborted_lost hdrive, ?initDone, ?marks, ?port, ?draws, ?drawn⟩
  case trace => simp
  case clk =>
    rintro rfl
    simp [clkAfter]
  case dio =>
    rintro rfl
    simp [dioAfter]
  case initDone => simp
  case marks => exact (emitAll_marks_prefix pre s).trans (emitAll_marks_prefix [.ioFail line] _)
  case port => simp [SamePort]
  case draws => simp [hdraws, List.drop_append]
  case drawn => simp [pinWrites_eq_pinCount, Nat.add_assoc]

/-- What R214 leaves of every request. -/
structure AbortedRequest (pre : List Event) (line : Line) (rest : List Bool) (s t : State) : Prop where
  wire : Aborted pre line rest s t
  corrupted : t.corrupted = true
  response : t.response = some ⟨.hardwareIo, []⟩
  last : t.marks.getLast? = some ⟨.hardwareIo, s.reqIndex⟩

theorem abortedRequest_hardwareIoError {pre : List Event} {line : Line} {rest : List Bool} {s v : State} (b : Bool)
    (h : Aborted pre line rest s v) : AbortedRequest pre line rest s (hardwareIoError b v) := by
  have hwire : Aborted pre line rest s (hardwareIoError b v) := by
    obtain ⟨htrace, hclk, hdio, hphase, hinit, hmarks, hport, hdraws, hdrawn⟩ := h
    have hmore := hmarks.trans (List.prefix_append v.marks [⟨.hardwareIo, v.reqIndex⟩])
    cases b <;> exact ⟨htrace, hclk, hdio, hphase, hinit, hmore, hport, hdraws, hdrawn⟩
  have hindex : v.reqIndex = s.reqIndex := h.port.2.2
  exact ⟨hwire, hardwareIoError_corrupted b v, hardwareIoError_response b v, by simp [hindex]⟩

/-- What the request wrote before its first event stays (R214). -/
def KeptWrites (pre : List Event) (s t : State) : Instr → Prop
  | .init active level =>
      t.active = active ∧ (t.intensity.toNat : Int) = min (max level.toInt 0) 7 ∧ SequencerCleared t
  | .setBrightness level => (t.intensity.toNat : Int) = min (max level.toInt 0) 7 ∧ t.active = s.active
  | .setActive on => t.intensity = s.intensity ∧ t.active = on
  | .scrollStep =>
      t.rStatus = .faulted ∧ t.rErr = some .hardwareIo ∧ t.rMsg = s.rMsg ∧ t.rDelay = s.rDelay ∧ t.rPair = s.rPair ∧
        t.rOff = s.rOff ∧ t.rSent = s.rSent
  | .scroll msg delay =>
      t.rStatus = .faulted ∧ t.rErr = some .hardwareIo ∧ t.rMsg = msg ∧ t.rDelay = delay ∧
        t.rSent = pinWrites pre / 250 ∧ 8 * t.rPair + t.rOff.val = t.rSent
  | _ => True

/-! ### The requests that send -/

theorem sameEngine_drive (es : List Event) (s : State) : SameEngine s (drive es s).1 := by
  simp [SameEngine]

theorem keptWrites_of_sends {i : Instr} (hi : sends i = true) (pre : List Event) {es : List Event} {s v : State}
    (hdrive : drive es (prepare i s) = (v, false)) : KeptWrites pre s (hardwareIoError false v) i := by
  have hengine := sameEngine_drive es (prepare i s)
  have hseq := sameSequencer_drive es (prepare i s)
  rw [hdrive] at hengine hseq
  obtain ⟨hintensity, hactive, -⟩ := hengine
  cases i with
  | init active level =>
    refine ⟨hactive, ?_, hseq⟩
    rw [hardwareIoError_intensity, hintensity]
    exact clampLevel_toNat _
  | setBrightness level =>
    refine ⟨?_, hactive⟩
    rw [hardwareIoError_intensity, hintensity]
    exact clampLevel_toNat _
  | setActive on => exact ⟨hintensity, hactive⟩
  | scrollStep | scroll => cases hi
  | _ => trivial

/-- A state with writes of its own before the events is the starting state as far as the wire goes. -/
theorem aborted_of_prepare {pre : List Event} {line : Line} {rest : List Bool} {i : Instr} {s v : State}
    (h : Aborted pre line rest (prepare i s) v) : Aborted pre line rest s v := by
  obtain ⟨htrace, hclk, hdio, hphase, hinit, hmarks, ⟨hcfg, hinput, hindex⟩, hdraws, hdrawn⟩ := h
  rw [prepare_trace] at htrace
  rw [prepare_initDone] at hinit
  rw [prepare_cfg] at hcfg
  rw [prepare_input] at hinput
  rw [prepare_reqIndex] at hindex
  rw [prepare_drawIndex] at hdrawn
  exact ⟨htrace, hclk, hdio, hphase, hinit, (prefix_marks_prepare i s).trans hmarks, ⟨hcfg, hinput, hindex⟩, hdraws, hdrawn⟩

/-! ### The scroll unit -/

/-- A step with events is that of a running sequencer with both glyphs there. -/
theorem scrollStepOp_of_events {s : State} (hready : Ready s) (h : scrollStepEvents s ≠ []) :
    scrollStepOp s =
      .next (transmit true (scrollStepEvents s) (fun t => respond .ok [] (advanceSequencer t)) s) := by
  unfold scrollStepEvents stepFrameEvents at h ⊢
  split at h
  next c1 c2 hrun hc1 hc2 =>
    split at h
    next g1 g2 hg1 hg2 =>
      rw [scrollStepOp_of_ready hready, scrollStepBody_of_running hrun hc1 hc2, scrollPair_of_glyphs hg1 hg2, scrollFrame,
        txFrame_eq_frameEvents]
      rfl
    next => exact absurd rfl h
  next => exact absurd rfl h

theorem drive_append_aborted {es fs : List Event} {s v : State} (h : drive (es ++ fs) s = (v, false)) :
    drive es s = (v, false) ∨ ∃ t, drive es s = (t, true) ∧ drive fs t = (v, false) := by
  rcases hes : drive es s with ⟨t, _ | _⟩
  · left
    rw [← h]
    induction es generalizing s with
    | nil => cases (Prod.mk.inj hes).2
    | cons e es ih =>
      rw [List.cons_append] at h ⊢
      rcases hsent : tryEmit e s with ⟨w, _ | _⟩
      · rw [drive_cons_of_failed _ hsent] at hes ⊢
        exact hes.symm
      · rw [drive_cons_of_sent _ hsent] at hes h ⊢
        exact ih h hes
  · exact .inr ⟨t, rfl, (drive_append_of_completed fs hes).symm.trans h⟩

/-- The frame in which a scroll's pin write failed. -/
theorem drive_scrollEvents_aborted {cfg : Config} {msg : List Byte} {delay : Half} {count : Nat} {s v : State}
    (h : drive (scrollEvents cfg msg delay count) s = (v, false)) :
    ∃ n < count, ∃ t, drive (scrollEvents cfg msg delay n) s = (t, true) ∧
      drive (pacedFrame cfg msg delay n) t = (v, false) := by
  induction count with
  | zero => cases (Prod.mk.inj h).2
  | succ count ih =>
    rw [scrollEvents_succ] at h
    obtain h | ⟨t, ht, hv⟩ := drive_append_aborted h
    · obtain ⟨n, hn, hframe⟩ := ih h
      exact ⟨n, Nat.lt_succ_of_lt hn, hframe⟩
    · exact ⟨count, Nat.lt_succ_self count, t, ht, hv⟩

/-- The pairs counted from the start of a message have their glyphs. -/
theorem lookupGlyph_of_lt_leadingPairs {cfg : Config} {msg : List Byte} {k : Nat} (h : k < leadingPairs cfg msg) :
    k + 1 < msg.length ∧ lookupGlyph cfg (msg.getD k 0) ≠ none ∧ lookupGlyph cfg (msg.getD (k + 1) 0) ≠ none := by
  induction msg generalizing k with
  | nil => cases h
  | cons c1 msg ih =>
    cases msg with
    | nil => cases h
    | cons c2 msg =>
      rw [leadingPairs] at h
      split_ifs at h with hpair
      · cases k with
        | zero => exact ⟨by simp, hpair⟩
        | succ k =>
          obtain ⟨hlength, hglyphs⟩ := ih (Nat.lt_of_succ_lt_succ h)
          exact ⟨Nat.succ_lt_succ hlength, hglyphs⟩
      · cases h

theorem hasFrame_of_lt_leadingPairs {cfg : Config} {msg : List Byte} {n : Nat} (h : n < 8 * leadingPairs cfg msg) :
    HasFrame cfg msg n := by
  obtain ⟨hlength, hfirst, hsecond⟩ := lookupGlyph_of_lt_leadingPairs (cfg := cfg) (msg := msg) (k := n / 8) (by omega)
  exact ⟨hlength, hfirst, hsecond⟩

/-- How many draws a list of events has taken. -/
theorem drawIndex_of_completed {es : List Event} {s t : State} (hio : s.cfg.ioFaults = true) (h : drive es s = (t, true)) :
    t.drawIndex = s.drawIndex + pinWrites es := by
  rw [drive_completed h, if_pos hio, takeDraws_eq, pinWrites_eq_pinCount]
  exact congrArg (· + _) (emitAll_drawIndex es s)

theorem drawIndex_of_aborted {es : List Event} {s v : State} (h : drive es s = (v, false)) :
    s.drawIndex < v.drawIndex ∧ v.drawIndex ≤ s.drawIndex + pinWrites es := by
  obtain ⟨-, pre, e, post, line, rfl, hline, rfl⟩ := drive_aborted h
  have hcount : pinWrites (pre ++ e :: post) = pinCount pre + 1 + pinCount post := by
    rw [pinWrites_eq_pinCount, pinCount_append, pinCount_cons, hline, Nat.add_assoc]
    rfl
  simp only [takeDraws_eq, emit_drawIndex, emitAll_drawIndex, hcount]
  omega

/-! ### Every request -/

/-- `SCROLL_STEP`: the abort of its one frame. -/
theorem scrollStep_aborted {pre post : List Event} {e : Event} {line : Line} {rest : List Bool} {s : State} (hready : Ready s)
    (hes : scrollStepEvents s = pre ++ e :: post) (hline : drivenLine e = some line) (hio : s.cfg.ioFaults = true)
    (hdraws : s.pinDraws = List.replicate (pinWrites pre) false ++ true :: rest) :
    ∃ t, exec .scrollStep s = .next t ∧ AbortedRequest pre line rest s t ∧ KeptWrites pre s t .scrollStep := by
  obtain ⟨v, hdrive, haborted⟩ := drive_aborts hes hline hio hdraws
  have hexec : exec .scrollStep s = .next (hardwareIoError true v) := by
    rw [exec_scrollStep, scrollStepOp_of_events hready (by rw [hes]; simp), transmit_of_aborted _ hdrive]
  have hseq := sameSequencer_drive (scrollStepEvents s) s
  rw [hdrive] at hseq
  obtain ⟨-, hmsg, hdelay, hpair, hoff, hsent, -⟩ := hseq
  exact ⟨_, hexec, abortedRequest_hardwareIoError true haborted, rfl, rfl, hmsg, hdelay, hpair, hoff, hsent⟩

/-- `SCROLL`: the abort of the frame that the count of pin writes names (R189). -/
theorem scroll_aborted {msg : List Byte} {delay : Half} {pre post : List Event} {e : Event} {line : Line} {rest : List Bool}
    {s : State} (hready : Ready s) (hes : scrollEvents s.cfg msg delay (8 * leadingPairs s.cfg msg) = pre ++ e :: post)
    (hline : drivenLine e = some line) (hio : s.cfg.ioFaults = true)
    (hdraws : s.pinDraws = List.replicate (pinWrites pre) false ++ true :: rest) :
    ∃ t, exec (.scroll msg delay) s = .next t ∧ AbortedRequest pre line rest s t ∧
      KeptWrites pre s t (.scroll msg delay) := by
  obtain ⟨v, hdrive, haborted⟩ := drive_aborts hes hline hio hdraws
  obtain ⟨n, hn, t, hbefore, hframe⟩ := drive_scrollEvents_aborted hdrive
  have hframes : ∀ j ≤ n, HasFrame s.cfg msg j := fun j hj => hasFrame_of_lt_leadingPairs (hj.trans_lt hn)
  have hcount : pinWrites pre / 250 = n := by
    have hsent := drawIndex_of_completed hio hbefore
    rw [pinWrites_scrollEvents delay fun j hj => hframes j (Nat.le_of_lt hj)] at hsent
    have hinside := drawIndex_of_aborted hframe
    rw [pinWrites_pacedFrame delay (hframes n le_rfl)] at hinside
    have hdrawn := haborted.drawn
    omega
  have hstands : Aborted pre line rest s (atFrame msg delay n v) := by
    obtain ⟨htrace, hclk, hdio, hphase, hinit, hmarks, hport, hdraws', hdrawn⟩ := haborted
    exact ⟨htrace, hclk, hdio, hphase, hinit, hmarks, hport, hdraws', hdrawn⟩
  exact ⟨_, exec_scroll_of_aborted hready hframes hbefore hframe, abortedRequest_hardwareIoError true hstands, rfl, rfl, rfl, rfl,
    hcount.symm, Nat.div_add_mod n 8⟩

/-- Every other request sends. -/
theorem sends_aborted {i : Instr} {pre post : List Event} {e : Event} {line : Line} {rest : List Bool} {s : State}
    (hi : sends i = true) (hrequest : i.isRequest = true) (hready : usesPrecheck i = true → Ready s)
    (hes : requestEvents s i = pre ++ e :: post) (hline : drivenLine e = some line) (hio : s.cfg.ioFaults = true)
    (hdraws : s.pinDraws = List.replicate (pinWrites pre) false ++ true :: rest) :
    ∃ t, exec i s = .next t ∧ AbortedRequest pre line rest s t ∧ KeptWrites pre s t i := by
  rw [← sentEvents_eq_requestEvents hi hrequest] at hes
  obtain ⟨v, hdrive, haborted⟩ := drive_aborts (s := prepare i s) hes hline (by rw [prepare_cfg]; exact hio)
    (by rw [prepare_pinDraws]; exact hdraws)
  refine ⟨hardwareIoError false v, ?_, abortedRequest_hardwareIoError false (aborted_of_prepare haborted),
    keptWrites_of_sends hi pre hdrive⟩
  rw [exec_of_sends hi hready, sendOut, transmit_of_aborted _ hdrive]

theorem request_aborted {i : Instr} {pre post : List Event} {e : Event} {line : Line} {rest : List Bool} {s : State}
    (hi : (∃ a l, i = .init a l) ∨ usesPrecheck i = true ∧ Ready s) (hes : requestEvents s i = pre ++ e :: post)
    (hline : drivenLine e = some line) (hio : s.cfg.ioFaults = true)
    (hdraws : s.pinDraws = List.replicate (pinWrites pre) false ++ true :: rest) :
    ∃ t, exec i s = .next t ∧ AbortedRequest pre line rest s t ∧ KeptWrites pre s t i := by
  obtain ⟨a, l, rfl⟩ | ⟨hprecheck, hready⟩ := hi
  · exact sends_aborted rfl rfl (fun h => by cases h) hes hline hio hdraws
  · cases i with
    | scrollStep => exact scrollStep_aborted hready hes hline hio hdraws
    | scroll => exact scroll_aborted hready hes hline hio hdraws
    | scrollStart => exact absurd hes.symm (by simp [requestEvents])
    | init | mergeRow | packFrame | reservedE | reservedF | dataAuto | dataFixed | dispCtrl | addr | data => cases hprecheck
    | _ => exact sends_aborted rfl rfl (fun _ => hready) hes hline hio hdraws

/-- Settles O47: the abort by the request. -/
theorem failedPinWriteAborts : Obligations.FailedPinWriteAborts := by
  intro i s pre post e line rest hi hes hline hio hdraws
  obtain ⟨t, hexec, ⟨hwire, hcorrupted, hresponse, hlast⟩, hkept⟩ := request_aborted hi hes hline hio hdraws
  obtain ⟨htrace, hclk, hdio, hphase, hinit, hmarks, hport, hrest, hdrawn⟩ := hwire
  refine ⟨t, hexec, htrace, hclk, hdio, hphase, hcorrupted, hinit, hresponse, hmarks, hlast, hport, hrest, hdrawn,
    ?init, ?brightness, ?active, ?step, ?scroll⟩
  case init => rintro a l rfl; exact hkept
  case brightness => rintro l rfl; exact hkept
  case active => rintro on rfl; exact hkept
  case step => rintro rfl; exact hkept
  case scroll => rintro msg delay rfl; exact hkept

end Sys2Proof.Machine

/-! Two runs side by side: an instruction reads the parameters, the registers of the engine and of the scroll unit, and the
draws, so two states that agree there answer alike (R22, R23, R30, R34), and draws that pass leave what a run without I/O
faults leaves (R54). -/

namespace Sys2Proof.Machine

open Stated

/-! ### The loop of `SCROLL` -/

/-- What the loop does with the result of a step (R187). -/
def afterScrollStep (k : Nat) (u : State) : Host.Outcome State Fault Refusal :=
  match u.response with
  | some ⟨.ok, _⟩ => scrollLoop k u
  | some ⟨.done, _⟩ => .next (respond .ok [] u)
  | _ => .next u

theorem scrollLoop_succ {k : Nat} {s u : State} (h : scrollStepOp s = .next u) :
    scrollLoop (k + 1) s = afterScrollStep k u := by
  rw [scrollLoop, h]
  rfl

theorem scrollLoop_succ_of_next {k : Nat} {s t : State} (h : scrollLoop (k + 1) s = .next t) :
    ∃ u, scrollStepOp s = .next u ∧ afterScrollStep k u = .next t := by
  cases hstep : scrollStepOp s with
  | next u => exact ⟨u, rfl, (scrollLoop_succ hstep).symm.trans h⟩
  | fault f =>
    rw [scrollLoop, hstep] at h
    cases h
  | refused r =>
    rw [scrollLoop, hstep] at h
    cases h

/-- Which way the loop goes depends on the answer of the step alone. -/
theorem afterScrollStep_cases (k : Nat) (u : State) :
    (∀ v, v.response = u.response → afterScrollStep k v = scrollLoop k v) ∨
    (∀ v, v.response = u.response → afterScrollStep k v = .next (respond .ok [] v)) ∨
    (∀ v, v.response = u.response → afterScrollStep k v = .next v) := by
  unfold afterScrollStep
  cases u.response with
  | none => exact .inr (.inr fun v hv => by rw [hv])
  | some answer =>
    obtain ⟨status, result⟩ := answer
    cases status with
    | ok => exact .inl fun v hv => by rw [hv]
    | done => exact .inr (.inl fun v hv => by rw [hv])
    | _ => exact .inr (.inr fun v hv => by rw [hv])

theorem trace_prefix_of_afterScrollStep {k : Nat} {u t : State} (h : afterScrollStep k u = .next t) : u.trace <+: t.trace := by
  obtain hloop | hdone | hstop := afterScrollStep_cases k u
  · rw [hloop u rfl] at h
    have hafter : After u t := scrollLoop_induct (fun _ _ hs hstep => (after_kept u).scrollStepOp hs hstep)
      (fun _ hs => (after_kept u).respond _ _ hs) (after_refl u) h
    exact hafter.2.1
  · rw [hdone u rfl] at h
    obtain rfl := next_inj h
    exact List.prefix_refl _
  · rw [hstop u rfl] at h
    obtain rfl := next_inj h
    exact List.prefix_refl _

/-! ### The registers an instruction reads -/

/-- The registers of the engine and of the scroll unit, other than the lines. -/
structure CoreRegisters where
  intensity : BitVec 3
  active : Bool
  initDone : Bool
  corrupted : Bool
  rStatus : SeqStatus
  rMsg : List Byte
  rDelay : Half
  rPair : Nat
  rOff : Fin 8
  rSent : Nat
  rErr : Option Status

def readCore (s : State) : CoreRegisters :=
  ⟨s.intensity, s.active, s.initDone, s.corrupted, s.rStatus, s.rMsg, s.rDelay, s.rPair, s.rOff, s.rSent, s.rErr⟩

def writeCore (r : CoreRegisters) (s : State) : State :=
  { s with
    intensity := r.intensity, active := r.active, initDone := r.initDone, corrupted := r.corrupted, rStatus := r.rStatus
    rMsg := r.rMsg, rDelay := r.rDelay, rPair := r.rPair, rOff := r.rOff, rSent := r.rSent, rErr := r.rErr }

theorem readCore_eq_iff (s t : State) : readCore t = readCore s ↔ SameEngine s t ∧ SameSequencer s t := by
  simp only [readCore, CoreRegisters.mk.injEq, SameEngine, SameSequencer, and_assoc]

/-- Two sets of parameters that no instruction tells apart, I/O faults aside. -/
structure SameReads (c c' : Config) : Prop where
  frameN : c'.frameN = c.frameN
  addrCount : c'.addrCount = c.addrCount
  lookup : lookupGlyph c' = lookupGlyph c

/-- A relation between two runs, of which the left has emitted a part of `T`, that every effect of an instruction keeps. -/
structure Twin (T : List Event) (R : State → State → Prop) : Prop where
  drive : ∀ {es s s' u ok}, R s s' → drive es s = (u, ok) → u.trace <+: T →
    ∃ u', Machine.drive es s' = (u', ok) ∧ R u u'
  mark : ∀ {k s s'}, R s s' → R (addMark k s) (addMark k s')
  respond : ∀ {st r s s'}, R s s' → R (respond st r s) (Machine.respond st r s')
  write : ∀ r {s s'}, R s s' → R (writeCore r s) (writeCore r s')
  read : ∀ {s s'}, R s s' → readCore s' = readCore s
  reads : ∀ {s s'}, R s s' → SameReads s.cfg s'.cfg

/-- Two results that are related and answer alike. -/
def AnsweredAlike (R : State → State → Prop) (t t' : State) : Prop := R t t' ∧ t'.response = t.response

/-- From two related states a procedure reaches results that `Q` relates, where the left one's events are a part of `T`. -/
def Follows (T : List Event) (R Q : State → State → Prop) (f : State → Host.Outcome State Fault Refusal) : Prop :=
  ∀ s s' t, R s s' → f s = .next t → t.trace <+: T → ∃ t', f s' = .next t' ∧ Q t t'

namespace Twin

variable {T : List Event} {R : State → State → Prop} (hR : Twin T R)
include hR

/-! ### The registers -/

/-- A write that depends on the registers alone. -/
theorem update (f : CoreRegisters → CoreRegisters) {s s' : State} (h : R s s') :
    R (writeCore (f (readCore s)) s) (writeCore (f (readCore s')) s') := by
  rw [hR.read h]
  exact hR.write _ h

theorem raiseError (e : ErrorKind) {s s' : State} (h : R s s') : R (raiseError e s) (Machine.raiseError e s') :=
  hR.respond (hR.mark h)

theorem hardwareIoError (b : Bool) {s s' : State} (h : R s s') : R (hardwareIoError b s) (Machine.hardwareIoError b s') := by
  cases b with
  | false => exact hR.raiseError _ (hR.update (fun r => { r with corrupted := true }) h)
  | true =>
    have hfault := hR.update (fun r => { r with corrupted := true, rStatus := .faulted, rErr := some .hardwareIo }) h
    exact hR.raiseError .hardwareIo hfault

theorem loadSequencer (msg : List Byte) (delay : Half) {s s' : State} (h : R s s') :
    R (loadSequencer msg delay s) (Machine.loadSequencer msg delay s') :=
  hR.update (fun r =>
    { r with
      rMsg := msg, rDelay := delay, rPair := 0, rOff := 0, rSent := 0, rErr := none
      rStatus := if 2 ≤ msg.length then .running else .done }) h

theorem advanceSequencer {s s' : State} (h : R s s') : R (advanceSequencer s) (Machine.advanceSequencer s') :=
  hR.update (fun r =>
    { r with
      rSent := r.rSent + 1
      rOff := if r.rOff = 7 then 0 else r.rOff + 1
      rPair := if r.rOff = 7 then r.rPair + 1 else r.rPair
      rStatus := if (if r.rOff = 7 then r.rPair + 1 else r.rPair) + 1 = r.rMsg.length then .done else r.rStatus }) h

theorem scrollMissing {s s' : State} (h : R s s') : R (scrollMissing s) (Machine.scrollMissing s') :=
  hR.raiseError _ (hR.update (fun r => { r with rStatus := .faulted, rErr := some .missingGlyph }) h)

theorem prepare (i : Instr) {s s' : State} (h : R s s') : R (prepare i s) (Machine.prepare i s') := by
  cases i with
  | init active level =>
    have hwritten := hR.update (fun r =>
      { r with
        intensity := clampLevel (sint16 level), active := active
        rStatus := .idle, rMsg := [], rDelay := 0, rPair := 0, rOff := 0, rSent := 0, rErr := none }) h
    exact hwritten
  | sendByte | terminate => exact hR.mark h
  | sendDataAt a v =>
    change R (markAddress a s) (markAddress a s')
    unfold markAddress
    rw [(hR.reads h).addrCount]
    split_ifs
    · exact hR.mark h
    · exact h
  | setBrightness level => exact hR.update (fun r => { r with intensity := clampLevel (sint16 level) }) h
  | setActive on => exact hR.update (fun r => { r with active := on }) h
  | sendCommand | sendFrame | clear | mergeRow | packFrame | scrollStart | scrollStep | scroll | reservedE | reservedF
  | dataAuto | dataFixed | dispCtrl | addr | data => exact h

theorem finish (i : Instr) {s s' : State} (h : R s s') : R (finish i s) (Machine.finish i s') := by
  cases i with
  | init => exact hR.respond (hR.update (fun r => { r with initDone := true, corrupted := false }) h)
  | sendByte | sendCommand | sendDataAt | sendFrame | clear | terminate | setBrightness | setActive | mergeRow | packFrame
  | scrollStart | scrollStep | scroll | reservedE | reservedF => exact hR.respond h
  | dataAuto | dataFixed | dispCtrl | addr | data => exact h

/-! ### Procedures -/

/-- Two transmissions of the same events end alike. -/
theorem transmit (Q : State → State → Prop) {b : Bool} {es : List Event} {k : State → State} {s s' : State} (h : R s s')
    (hk : ∀ u u', R u u' → Q (k u) (k u')) (hkeeps : ∀ u, (k u).trace = u.trace)
    (hfail : ∀ u u', R u u' → Q (Machine.hardwareIoError b u) (Machine.hardwareIoError b u'))
    (hT : (transmit b es k s).trace <+: T) : Q (Machine.transmit b es k s) (Machine.transmit b es k s') := by
  obtain ⟨u, hdrive, heq⟩ | ⟨u, hdrive, heq⟩ := transmit_cases b es k s
  · rw [heq, hkeeps] at hT
    obtain ⟨u', hdrive', hu⟩ := hR.drive h hdrive hT
    rw [heq, transmit_of_completed k hdrive']
    exact hk u u' hu
  · rw [heq, hardwareIoError_trace] at hT
    obtain ⟨u', hdrive', hu⟩ := hR.drive h hdrive hT
    rw [heq, transmit_of_aborted k hdrive']
    exact hfail u u' hu

theorem initDone {s s' : State} (h : R s s') : s'.initDone = s.initDone := congrArg CoreRegisters.initDone (hR.read h)

theorem corrupted {s s' : State} (h : R s s') : s'.corrupted = s.corrupted := congrArg CoreRegisters.corrupted (hR.read h)

theorem raised (e : ErrorKind) {s s' : State} (h : R s s') :
    AnsweredAlike R (Machine.raiseError e s) (Machine.raiseError e s') := ⟨hR.raiseError e h, rfl⟩

theorem responded (st : Status) (r : List Byte) {s s' : State} (h : R s s') :
    AnsweredAlike R (Machine.respond st r s) (Machine.respond st r s') := ⟨hR.respond h, rfl⟩

theorem failed (b : Bool) {s s' : State} (h : R s s') :
    AnsweredAlike R (Machine.hardwareIoError b s) (Machine.hardwareIoError b s') :=
  ⟨hR.hardwareIoError b h, by rw [hardwareIoError_response, hardwareIoError_response]⟩

theorem withPrecheck {body : State → Host.Outcome State Fault Refusal} {Q : State → State → Prop}
    (hQ : ∀ e u u', R u u' → Q (Machine.raiseError e u) (Machine.raiseError e u')) (hbody : Follows T R Q body) :
    Follows T R Q (Machine.withPrecheck body) := by
  intro s s' t h hrun hT
  have hcheck : precheckDriver s' = precheckDriver s := by
    rw [precheckDriver, precheckDriver, hR.initDone h, hR.corrupted h]
  unfold Machine.withPrecheck at hrun ⊢
  rw [hcheck]
  cases hpre : precheckDriver s with
  | some e =>
    rw [hpre] at hrun
    exact ⟨_, rfl, next_inj hrun ▸ hQ e s s' h⟩
  | none =>
    rw [hpre] at hrun
    exact hbody s s' t h hrun hT

/-! ### The scroll unit -/

theorem pacing {s s' : State} (h : R s s') : pacing s' = Machine.pacing s :=
  congrArg (fun r : CoreRegisters => if 0 < r.rSent then [Event.sleep r.rDelay] else []) (hR.read h)

theorem currentPair {s s' : State} (h : R s s') : currentPair s' = Machine.currentPair s := by
  have hread := hR.read h
  have hmsg : s'.rMsg = s.rMsg := congrArg CoreRegisters.rMsg hread
  have hpair : s'.rPair = s.rPair := congrArg CoreRegisters.rPair hread
  rw [Machine.currentPair, Machine.currentPair, hmsg, hpair]

theorem lookupPair (c1 c2 : Byte) {s s' : State} (h : R s s') : lookupPair s'.cfg c1 c2 = Machine.lookupPair s.cfg c1 c2 := by
  rw [Machine.lookupPair, Machine.lookupPair, (hR.reads h).lookup]

theorem scrollFrame (g1 g2 : Glyph) {s s' : State} (h : R s s') (hT : (scrollFrame g1 g2 s).trace <+: T) :
    AnsweredAlike R (Machine.scrollFrame g1 g2 s) (Machine.scrollFrame g1 g2 s') := by
  have hoff : s'.rOff = s.rOff := congrArg CoreRegisters.rOff (hR.read h)
  unfold Machine.scrollFrame at hT ⊢
  rw [hR.pacing h, hoff]
  exact hR.transmit (AnsweredAlike R) h (fun _ _ hu => hR.responded .ok [] (hR.advanceSequencer hu)) (fun _ => rfl)
    (fun _ _ hu => hR.failed true hu) hT

theorem scrollPair (c1 c2 : Byte) {s s' : State} (h : R s s') (hT : (scrollPair c1 c2 s).trace <+: T) :
    AnsweredAlike R (Machine.scrollPair c1 c2 s) (Machine.scrollPair c1 c2 s') := by
  unfold Machine.scrollPair at hT ⊢
  rw [hR.lookupPair c1 c2 h]
  cases hpair : Machine.lookupPair s.cfg c1 c2 with
  | none => exact ⟨hR.scrollMissing h, rfl⟩
  | some g =>
    rw [hpair] at hT
    exact hR.scrollFrame g.1 g.2 h hT

theorem scrollStepBody : Follows T R (AnsweredAlike R) scrollStepBody := by
  intro s s' t h hrun hT
  have hstatus : s'.rStatus = s.rStatus := congrArg CoreRegisters.rStatus (hR.read h)
  have herr : s'.rErr = s.rErr := congrArg CoreRegisters.rErr (hR.read h)
  unfold Machine.scrollStepBody at hrun ⊢
  rw [hstatus, herr, hR.currentPair h]
  cases hs : s.rStatus with
  | idle | done =>
    rw [hs] at hrun
    exact ⟨_, rfl, next_inj hrun ▸ hR.responded .done [] h⟩
  | faulted =>
    rw [hs] at hrun
    cases he : s.rErr with
    | none =>
      rw [he] at hrun
      cases hrun
    | some e =>
      rw [he] at hrun
      exact ⟨_, rfl, next_inj hrun ▸ hR.responded e [] h⟩
  | running =>
    rw [hs] at hrun
    cases hpair : Machine.currentPair s with
    | none =>
      rw [hpair] at hrun
      cases hrun
    | some c =>
      rw [hpair] at hrun
      obtain rfl := next_inj hrun
      exact ⟨_, rfl, hR.scrollPair c.1 c.2 h hT⟩

theorem scrollStepOp : Follows T R (AnsweredAlike R) scrollStepOp :=
  hR.withPrecheck (fun e _ _ hu => hR.raised e hu) hR.scrollStepBody

theorem scrollLoop (k : Nat) : Follows T R (AnsweredAlike R) (scrollLoop k) := by
  induction k with
  | zero =>
    intro s s' t h hrun
    cases hrun
  | succ k ih =>
    intro s s' t h hrun hT
    obtain ⟨u, hstep, hrest⟩ := scrollLoop_succ_of_next hrun
    have hbetween : u.trace <+: T := (trace_prefix_of_afterScrollStep hrest).trans hT
    obtain ⟨u', hstep', hu, hanswer⟩ := hR.scrollStepOp s s' u h hstep hbetween
    rw [scrollLoop_succ hstep']
    obtain hloop | hdone | hstop := afterScrollStep_cases k u
    · rw [hloop u rfl] at hrest
      rw [hloop u' hanswer]
      exact ih u u' t hu hrest hT
    · rw [hdone u rfl] at hrest
      rw [hdone u' hanswer]
      exact ⟨_, rfl, next_inj hrest ▸ hR.responded .ok [] hu⟩
    · rw [hstop u rfl] at hrest
      rw [hstop u' hanswer]
      exact ⟨_, rfl, next_inj hrest ▸ ⟨hu, hanswer⟩⟩

/-! ### Every instruction -/

theorem sentEvents (i : Instr) {s s' : State} (h : R s s') : sentEvents s' i = Machine.sentEvents s i := by
  have hintensity : s'.intensity = s.intensity := congrArg CoreRegisters.intensity (hR.read h)
  have hactive : s'.active = s.active := congrArg CoreRegisters.active (hR.read h)
  have hframe : s'.cfg.frameN = s.cfg.frameN := (hR.reads h).frameN
  cases i with
  | init active level =>
    simp only [Machine.sentEvents, initEvents, txDisplayControl, initRegisters_cfg, initRegisters_intensity,
      initRegisters_active, hframe]
  | clear => simp only [Machine.sentEvents, hframe]
  | setBrightness | setActive => simp only [Machine.sentEvents, hintensity, hactive]
  | _ => rfl

theorem sendOut (i : Instr) {s s' : State} (h : R s s') (hT : (sendOut i s).trace <+: T) :
    R (Machine.sendOut i s) (Machine.sendOut i s') := by
  unfold Machine.sendOut at hT ⊢
  rw [hR.sentEvents i h]
  exact hR.transmit R (hR.prepare i h) (fun _ _ hu => hR.finish i hu) (finish_trace i)
    (fun _ _ hu => hR.hardwareIoError false hu) hT

theorem sendOut_request {i : Instr} (hi : i.isRequest = true) {s s' : State} (h : R s s')
    (hT : (Machine.sendOut i s).trace <+: T) : AnsweredAlike R (Machine.sendOut i s) (Machine.sendOut i s') := by
  unfold Machine.sendOut at hT ⊢
  rw [hR.sentEvents i h]
  exact hR.transmit (AnsweredAlike R) (hR.prepare i h)
    (fun u u' hu => ⟨hR.finish i hu, by rw [finish_response hi, finish_response hi]⟩) (finish_trace i)
    (fun _ _ hu => hR.failed false hu) hT

/-- A request from two related states. -/
theorem request {i : Instr} (hi : i.isRequest = true) : Follows T R (AnsweredAlike R) (exec i) := by
  have hprecheck {body : State → Host.Outcome State Fault Refusal} (hbody : Follows T R (AnsweredAlike R) body) :
      Follows T R (AnsweredAlike R) (Machine.withPrecheck body) := hR.withPrecheck (fun e _ _ hu => hR.raised e hu) hbody
  have hsends (hs : sends i = true) : Follows T R (AnsweredAlike R) fun u => .next (Machine.sendOut i u) := by
    intro s s' t h hrun hT
    obtain rfl := next_inj hrun
    exact ⟨_, rfl, hR.sendOut_request hi h hT⟩
  cases i with
  | init active level => exact hsends rfl
  | sendByte | sendCommand | sendDataAt | sendFrame | clear | terminate | setBrightness | setActive =>
    exact hprecheck (hsends rfl)
  | scrollStart msg delay =>
    refine hprecheck fun s s' t h hrun _ => ?_
    obtain rfl := next_inj hrun
    exact ⟨_, rfl, hR.responded .ok [] (hR.loadSequencer msg delay h)⟩
  | scrollStep => exact hR.scrollStepOp
  | scroll msg delay =>
    exact hprecheck fun s s' t h hrun hT => hR.scrollLoop _ _ _ t (hR.loadSequencer msg delay h) hrun hT
  | mergeRow c1 c2 offset =>
    intro s s' t h hrun _
    by_cases hoff : offset.toNat ≤ 8
    · rw [execMergeRow_of_le hoff] at hrun ⊢
      exact ⟨_, rfl, next_inj hrun ▸ hR.responded _ _ h⟩
    · rw [execMergeRow_of_gt (Nat.lt_of_not_le hoff)] at hrun ⊢
      exact ⟨_, rfl, next_inj hrun ▸ hR.raised _ h⟩
  | packFrame c1 c2 offset =>
    intro s s' t h hrun _
    by_cases hoff : offset.toNat ≤ 8
    · rw [execPackFrame_of_le hoff] at hrun ⊢
      refine ⟨_, rfl, next_inj hrun ▸ ?_⟩
      unfold packResponse
      rw [hR.lookupPair c1 c2 h]
      cases Machine.lookupPair s.cfg c1 c2 with
      | none => exact hR.raised _ h
      | some g => exact hR.responded _ _ h
    · rw [execPackFrame_of_gt (Nat.lt_of_not_le hoff)] at hrun ⊢
      exact ⟨_, rfl, next_inj hrun ▸ hR.raised _ h⟩
  | reservedE | reservedF =>
    intro s s' t h hrun _
    exact ⟨_, rfl, next_inj hrun ▸ hR.raised _ h⟩
  | dataAuto | dataFixed | dispCtrl | addr | data => cases hi

/-- Any instruction from two related states; a wire item answers nothing. -/
theorem exec (i : Instr) : Follows T R R (exec i) := by
  intro s s' t h hrun hT
  cases hi : i.isRequest with
  | true =>
    obtain ⟨t', hrun', ht, -⟩ := hR.request hi s s' t h hrun hT
    exact ⟨t', hrun', ht⟩
  | false =>
    have hsends : sends i = true ∧ usesPrecheck i = false := by
      cases i with
      | dataAuto | dataFixed | dispCtrl | addr | data => exact ⟨rfl, rfl⟩
      | _ => cases hi
    rw [exec_of_sends_unchecked hsends.1 hsends.2] at hrun ⊢
    obtain rfl := next_inj hrun
    exact ⟨_, rfl, hR.sendOut i h hT⟩

end Twin

/-! ### Two states that differ where no request reads -/

/-- The parameters, the draws and the registers alike, with the same events emitted since `s` and `s'`. -/
structure SameRun (s s' u u' : State) : Prop where
  cfg : u'.cfg = u.cfg
  draws : SameDraws u u'
  core : readCore u' = readCore u
  events : ∃ es, u.trace = s.trace ++ es ∧ u'.trace = s'.trace ++ es

theorem sameRun_emit {s s' u u' : State} (e : Event) (h : SameRun s s' u u') : SameRun s s' (emit e u) (emit e u') := by
  obtain ⟨hcfg, hdraws, hcore, es, hu, hu'⟩ := h
  exact ⟨hcfg, hdraws, hcore, es ++ [e], by rw [emit_trace, hu, List.append_assoc], by rw [emit_trace, hu', List.append_assoc]⟩

theorem sameRun_takeDraw {s s' u u' : State} (h : SameRun s s' u u') : SameRun s s' (takeDraw u) (takeDraw u') := by
  obtain ⟨hcfg, ⟨hdraws, hindex⟩, hcore, hevents⟩ := h
  exact ⟨hcfg, ⟨congrArg List.tail hdraws, congrArg (· + 1) hindex⟩, hcore, hevents⟩

theorem sameRun_tryEmit {s s' u u' : State} (e : Event) (h : SameRun s s' u u') :
    SameRun s s' (tryEmit e u).1 (tryEmit e u').1 ∧ (tryEmit e u').2 = (tryEmit e u).2 := by
  have hdraw : nextDraw u' = nextDraw u := by
    rw [nextDraw, nextDraw, h.draws.1, h.draws.2]
  unfold tryEmit
  rw [h.cfg, hdraw]
  cases pinOf e with
  | none => exact ⟨sameRun_emit e h, rfl⟩
  | some line =>
    dsimp only
    split_ifs
    · exact ⟨sameRun_emit _ (sameRun_takeDraw h), rfl⟩
    · exact ⟨sameRun_emit e (sameRun_takeDraw h), rfl⟩
    · exact ⟨sameRun_emit e h, rfl⟩

theorem sameRun_drive {s s' u u' v : State} {es : List Event} {ok : Bool} (h : SameRun s s' u u')
    (hdrive : drive es u = (v, ok)) : ∃ v', drive es u' = (v', ok) ∧ SameRun s s' v v' := by
  induction es generalizing u u' with
  | nil =>
    obtain ⟨rfl, rfl⟩ := Prod.mk.inj hdrive
    exact ⟨u', rfl, h⟩
  | cons e es ih =>
    obtain ⟨hsame, hflag⟩ := sameRun_tryEmit e h
    rcases hsent : tryEmit e u with ⟨w, _ | _⟩ <;> rcases hsent' : tryEmit e u' with ⟨w', flag⟩ <;>
      rw [hsent, hsent'] at hsame hflag <;> obtain rfl : flag = _ := hflag
    · rw [drive_cons_of_failed es hsent] at hdrive
      obtain ⟨rfl, rfl⟩ := Prod.mk.inj hdrive
      exact ⟨w', drive_cons_of_failed es hsent', hsame⟩
    · rw [drive_cons_of_sent es hsent] at hdrive
      rw [drive_cons_of_sent es hsent']
      exact ih hsame hdrive

theorem twin_sameRun (T : List Event) (s s' : State) : Twin T (SameRun s s') where
  drive h hdrive _ := sameRun_drive h hdrive
  mark h := ⟨h.cfg, h.draws, h.core, h.events⟩
  respond h := ⟨h.cfg, h.draws, h.core, h.events⟩
  write _ _ _ h := ⟨h.cfg, h.draws, rfl, h.events⟩
  read h := h.core
  reads h := by rw [h.cfg]; exact ⟨rfl, rfl, rfl⟩

/-- Settles O21: the two states agree in everything a request reads. -/
theorem requestsReadNoObserver : Obligations.RequestsReadNoObserver := by
  intro i s s' t hi hs' hexec
  have hstart : SameRun s s' s s' := by
    rw [hs']
    exact ⟨rfl, ⟨rfl, rfl⟩, rfl, [], (List.append_nil _).symm, (List.append_nil _).symm⟩
  obtain ⟨t', hexec', ⟨-, hdraws, hcore, es, htrace, htrace'⟩, hanswer⟩ :=
    (twin_sameRun t.trace s s').request hi s s' t hstart hexec (List.prefix_refl _)
  obtain ⟨hengine, hseq⟩ := (readCore_eq_iff t t').1 hcore
  exact ⟨t', es, hexec', hanswer, hengine, hseq, hdraws, htrace, htrace'⟩

/-! ### Draws that pass -/

/-- The left run has no I/O faults; the right one is the left's state with `s`'s parameters and as many of `s`'s draws taken as
pin writes were made. -/
def Passing (s u u' : State) : Prop :=
  u.cfg = { s.cfg with ioFaults := false } ∧ SameDraws s u ∧
    ∃ es, u.trace = s.trace ++ es ∧
      u' = { u with
        cfg := s.cfg, pinDraws := s.pinDraws.drop (pinWrites es), drawIndex := s.drawIndex + pinWrites es }

theorem pinWrites_le_of_prefix {es fs : List Event} (h : es <+: fs) : pinWrites es ≤ pinWrites fs := h.sublist.countP_le

/-- What a run without I/O faults is to the same run with them: its wire state, whatever the draws. -/
theorem emitAll_withDraws {s : State} (es : List Event) (u : State) (draws : List Bool) (index : Nat)
    (hcfg : u.cfg = { s.cfg with ioFaults := false }) :
    emitAll es { u with cfg := s.cfg, pinDraws := draws, drawIndex := index } =
      { emitAll es u with cfg := s.cfg, pinDraws := draws, drawIndex := index } := by
  induction es generalizing u with
  | nil => rfl
  | cons e es ih =>
    rw [emitAll_cons, emitAll_cons, ← ih (emit e u) hcfg]
    congr 1
    have hcount : u.cfg.addrCount = s.cfg.addrCount := by rw [hcfg]
    unfold emit
    rw [hcount]

theorem passing_drive {s : State} {total : List Event} {rest : List Bool} (hio : s.cfg.ioFaults = true)
    (hdraws : s.pinDraws = List.replicate (pinWrites total) false ++ rest) {es : List Event} {u u' v : State} {ok : Bool}
    (h : Passing s u u') (hdrive : drive es u = (v, ok)) (hT : v.trace <+: s.trace ++ total) :
    ∃ v', drive es u' = (v', ok) ∧ Passing s v v' := by
  obtain ⟨hcfg, ⟨hpins, hindex⟩, before, htrace, rfl⟩ := h
  rw [drive_noFault es (by rw [hcfg])] at hdrive
  obtain ⟨rfl, rfl⟩ := Prod.mk.inj hdrive
  rw [emitAll_trace, htrace, List.append_assoc] at hT
  have hbudget := pinWrites_le_of_prefix ((List.prefix_append_right_inj _).1 hT)
  rw [pinWrites_append] at hbudget
  obtain ⟨spare, hspare⟩ := Nat.exists_eq_add_of_le hbudget
  have hremaining : s.pinDraws.drop (pinWrites before) =
      List.replicate (pinCount es) false ++ (List.replicate spare false ++ rest) := by
    rw [hdraws, hspare, ← pinWrites_eq_pinCount, Nat.add_assoc, List.replicate_add, List.append_assoc,
      List.drop_left' List.length_replicate, List.replicate_add, List.append_assoc]
  refine ⟨_, drive_of_draws es _ _ hio hremaining, by rw [emitAll_cfg, hcfg], ?draws, before ++ es, ?trace, ?state⟩
  case draws => exact ⟨(emitAll_pinDraws es u).trans hpins, (emitAll_drawIndex es u).trans hindex⟩
  case trace => rw [emitAll_trace, htrace, List.append_assoc]
  case state =>
    rw [emitAll_withDraws es u _ _ hcfg, takeDraws_eq, pinWrites_append, pinWrites_eq_pinCount es]
    simp only [List.drop_drop, Nat.add_assoc]

theorem twin_passing {s : State} {total : List Event} {rest : List Bool} (hio : s.cfg.ioFaults = true)
    (hdraws : s.pinDraws = List.replicate (pinWrites total) false ++ rest) : Twin (s.trace ++ total) (Passing s) where
  drive h hdrive hT := passing_drive hio hdraws h hdrive hT
  mark := by
    rintro k u _ ⟨hcfg, hsame, es, htrace, rfl⟩
    exact ⟨hcfg, hsame, es, htrace, rfl⟩
  respond := by
    rintro st r u _ ⟨hcfg, hsame, es, htrace, rfl⟩
    exact ⟨hcfg, hsame, es, htrace, rfl⟩
  write := by
    rintro r u _ ⟨hcfg, hsame, es, htrace, rfl⟩
    exact ⟨hcfg, hsame, es, htrace, rfl⟩
  read := by
    rintro u _ ⟨-, -, es, -, rfl⟩
    rfl
  reads := by
    rintro u _ ⟨hcfg, -, es, -, rfl⟩
    rw [hcfg]
    exact ⟨rfl, rfl, rfl⟩

/-- Settles O48: the two runs stay in step as long as the draws that pass last. -/
theorem passingDrawsChangeNothing : Obligations.PassingDrawsChangeNothing := by
  intro i s t n rest hio hexec hn hdraws
  let off : State := { s with cfg := { s.cfg with ioFaults := false } }
  have hstart : Passing s off s :=
    ⟨rfl, ⟨rfl, rfl⟩, [], (List.append_nil _).symm, rfl⟩
  obtain ⟨total, htotal⟩ : s.trace <+: t.trace := (after_of_exec hexec).2.1
  have hlength : n = pinWrites total := by rw [hn, ← htotal, List.drop_left]
  rw [hlength] at hdraws
  obtain ⟨t', hexec', -, ⟨-, -⟩, es, htrace, rfl⟩ :=
    (twin_passing hio hdraws).exec i off s t hstart hexec (by rw [htotal])
  obtain rfl : es = total := List.append_cancel_left (htrace.symm.trans htotal.symm)
  rw [hexec', hdraws, hlength, List.drop_left' List.length_replicate]

end Sys2Proof.Machine
